-- ==== Sys2Proof/Word.lean ====
section
/-! DEFINITION. The widths of CRCW's values (00_scope.md R6): 32-bit words, bytes, the 12-bit bus
offset and the 64-bit intermediate of the multipliers. -/

namespace Sys2Proof

/-- A 32-bit CRC value, polynomial operand, register or command word (R6). -/
abbrev Word := BitVec 32

/-- An 8-bit multiplier operand or buffer byte (R6). -/
abbrev Byte := BitVec 8

/-- A byte offset in the bus space, 0x000 to 0xFFF (R6, 20_memory.md R51). -/
abbrev Offset := BitVec 12

/-- The 64-bit intermediate of the multipliers (41_polymul.md R120, R121), and LENGTH (R25). -/
abbrev Dword := BitVec 64

/-- `ONES`, the all-ones complement of the checksum convention (00_scope.md R7). -/
def ones : Word := 0xFFFFFFFF#32

end Sys2Proof
end

