-- ==== Sys2Proof/Config.lean ====
section
/-! DEFINITION. The elaboration parameters of CRCW (00_scope.md R4, R5, 20_memory.md R70), fixed for a
whole run (70_reset_and_hazards.md R231), and the one free value of the model. -/

namespace Sys2Proof

/-- The parameters of one CRCW. BUF_DEPTH is held as its number of 32-bit words less one, so that
every value of this type is a configuration R5 allows (a multiple of 4, 4 to 1024) and a
configuration it does not allow cannot be written (93 U12: refused). Log 2. -/
structure Config where
  /-- POLY_REV, the reflected generator without its x^32 term (R4); any 32-bit value (93 U13). -/
  polyRev : Word
  /-- BUF_DEPTH / 4 − 1 (R5). -/
  bufWordsLessOne : Fin 256
  /-- CRCW_BASE, where the platform places the block (R70, 93 U14). DESIGN CHOICE: default 0 (log 2). -/
  crcwBase : Nat
  deriving DecidableEq, Repr

namespace Config

/-- The default configuration: the IEEE 802.3 polynomial (R4) and BUF_DEPTH = 256 (R5). -/
def default : Config where
  polyRev := 0xEDB88320#32
  bufWordsLessOne := 63
  crcwBase := 0

/-- BUF_DEPTH, the byte capacity of each of OLDBUF and NEWBUF (R5). -/
def bufDepth (c : Config) : Nat := 4 * (c.bufWordsLessOne.val + 1)

/-- The bus offset that a system address reaches, where it reaches this block (R70: bus offsets are
relative to CRCW_BASE). -/
def offsetOf (c : Config) (systemAddress : Nat) : Option Offset :=
  if c.crcwBase ≤ systemAddress ∧ systemAddress < c.crcwBase + 0x1000 then
    some (BitVec.ofNat 12 (systemAddress - c.crcwBase))
  else none

/-- FREE VALUE (log 5): what a buffer byte holds that the host has not written since hardware reset
number `resets` (10_state.md R34, 93 U1: "whatever the RAM holds"). No body: nothing in Lean knows it. -/
opaque ramByte (resets address : Nat) : Byte

end Config

end Sys2Proof
end

