-- ==== Sys2Proof/Syntax.lean ====
section
/-! DEFINITION. The commands of CRCW: one constructor per row of spec/opcode_table.json
(30_encoding.md R82). -/

namespace Sys2Proof

/-- A command (R82). NOLD and NNEW are unsigned counts (R81), WUPDATE's only operand fields. -/
inductive Instr where
  /-- 0x00, 43_control.md R190 -/
  | nop
  /-- 0x01, 43_control.md R191 -/
  | clrerr
  /-- 0x10, 40_byte_step.md R104 -/
  | bstep
  /-- 0x11, 41_polymul.md R130 -/
  | mul8
  /-- 0x12, 41_polymul.md R131 -/
  | mul32
  /-- 0x20, 42_window.md R150 -/
  | wreset
  /-- 0x21, 42_window.md R162: remove `nold` old bytes, append `nnew` new bytes -/
  | wupdate (nold nnew : Nat)
  deriving DecidableEq, Repr

end Sys2Proof
end

