-- ==== Sys2Proof/Machine/State.lean ====
section
/-! DEFINITION. The state of one CRCW (10_state.md R20 to R39) as plain data, with the host's side of
the bus (20_memory.md R50, R51) that drives it, and the machine right after reset. -/

namespace Sys2Proof.Machine

/-- The errors of 60_exceptions.md R201. -/
inductive ErrorName where
  /-- code 1: NOLD > LENGTH -/
  | windowUnderflow
  /-- code 2: NOLD > NNEW -/
  | shrinkNotSupported
  /-- code 3: the word is not legal (30_encoding.md R83) -/
  | illegalCommand
  /-- code 4: a count exceeds BUF_DEPTH -/
  | countRange
  /-- code 5: LENGTH would pass 2^64 − 1 -/
  | lengthOverflow
  /-- code 6: a write while a command is in flight -/
  | busyViolation
  /-- code 7: a narrow, misaligned, reserved or read-only access -/
  | badAccess
  deriving DecidableEq, Repr

/-- What a model of CRCW records as a fault (00_scope.md R15). A fault is RECORDED in `State.faults`
"for the rest of the run and is never final": the hardware goes on (60_exceptions.md R204), so no
step of this model stops with one, and a claim about a run may carry the premise that none is
recorded (R206). -/
inductive Fault where
  /-- Raised by a host access or by the acceptance of a command (R201), with what ERRINFO would hold
  for it (R31). Safe: the machine's own effect is modelled beside the record. -/
  | error (e : ErrorName) (info : Word)
  /-- Raised by a host read of a buffer word holding an unwritten byte, and by a WUPDATE that uses one
  (R34, 93 U1), with the byte's bus offset. Safe: the byte's value is a free value. -/
  | unwrittenByte (address : Nat)
  deriving DecidableEq, Repr

/-- Why the model gives an instruction no meaning. Every command of CRCW has its meaning. -/
inductive Refusal where
  /-- Raised by an arm of `exec` whose instruction has no meaning yet; no arm is of that kind. Safe. -/
  | notModelled (mnemonic : String)
  deriving DecidableEq, Repr

/-- The size of a bus access in bytes: 1, 2 or 4 (20_memory.md R51). -/
inductive AccessSize where
  | one
  | two
  | four
  deriving DecidableEq, Repr

/-- A bus transaction (20_memory.md R51); wdata "is used only for writes". -/
inductive Transaction where
  | read (addr : Offset) (size : AccessSize)
  | write (addr : Offset) (size : AccessSize) (wdata : Word)
  deriving DecidableEq, Repr

/-- The response of a transaction: OK or ERR (R51). -/
inductive Resp where
  | ok
  | err
  deriving DecidableEq, Repr

/-- What a transaction answers (R51); rdata "is used only for reads". Log 3. -/
inductive BusAnswer where
  | read (rdata : Word) (resp : Resp)
  | write (resp : Resp)
  deriving DecidableEq, Repr

/-- What the host does next: one transaction, or reading `addr` until `rdata & mask = value`
(30_encoding.md R86 `POLL`). -/
inductive HostOp where
  | tx (t : Transaction)
  | poll (addr : Offset) (mask value : Word)
  deriving DecidableEq, Repr

/-- Who takes a step: the host, the engine (00_scope.md R14), or the environment that applies
hardware reset (70_reset_and_hazards.md R230). -/
inductive Agent where
  | host
  | engine
  | reset
  deriving DecidableEq, Repr

/-- The bytes the host has written into OLDBUF and NEWBUF since hardware reset, by bus offset
(R34, R58), in rising order. A byte's written bit (R34) is set exactly when its offset is listed. -/
abbrev Memory := List Host.Cell

/-- The state of the machine. -/
structure State where
  /-- The elaboration parameters (R4, R5, R70): not state of the machine, written by nothing (R231). -/
  cfg : Config
  /-- OPA (R22) -/
  opa : Word
  /-- OPB (R23) -/
  opb : Word
  /-- RESULT (R24) -/
  result : Word
  /-- LENGTH (R25) -/
  length : BitVec 64
  /-- CORE (R26) -/
  core : Word
  /-- ZC (R28) -/
  zc : Word
  /-- OC (R27) -/
  oc : Word
  /-- STATUS.ERR (R30) -/
  err : Bool
  /-- STATUS.ERRCODE (R30) -/
  errcode : BitVec 4
  /-- ERRINFO (R31) -/
  errinfo : Word
  /-- PEND (R37); STATUS.BUSY is 1 exactly when it holds a word -/
  pend : Option Word
  /-- the written bytes of OLDBUF and NEWBUF (R34) -/
  mem : Memory
  /-- XPC, the cached power of x (R36) -/
  xpc : Word
  /-- XPC_N, the exponent of the cached power, in bytes (R36) -/
  xpcN : Nat
  /-- the model's own: the host's operations still to come, next first (R14; log 1) -/
  host : List HostOp
  /-- the model's own: who takes the next steps, next first (R64, R203; log 1) -/
  sched : List Agent
  /-- the model's own: the answer of the last transaction (R51; log 3) -/
  answer : Option BusAnswer
  /-- the model's own: the faults of the run, oldest first (R15, R206; log 4) -/
  faults : List Fault
  /-- the model's own: the number of hardware resets so far (R34; log 5) -/
  resets : Nat
  deriving DecidableEq, Repr

/-- The machine with configuration `cfg` after its first hardware reset: every value of R39, no host
operation and no schedule. -/
def State.resetOf (cfg : Config) : State where
  cfg := cfg
  opa := 0#32
  opb := 0#32
  result := 0#32
  length := 0#64
  core := 0#32
  zc := 0#32
  oc := cfg.polyRev
  err := false
  errcode := 0#4
  errinfo := 0#32
  pend := none
  mem := []
  xpc := 0x80000000#32
  xpcN := 0
  host := []
  sched := []
  answer := none
  faults := []
  resets := 0

/-- The machine right after reset, in the default configuration (R4, R5, R39). -/
def State.reset : State := State.resetOf Config.default

end Sys2Proof.Machine
end

