-- ==== Sys2Proof/Machine/Ops.lean ====
section
/-! DEFINITION. The named operations over memory and registers that the commands and the bus share:
the buffer bytes (10_state.md R34, 20_memory.md R58 to R60), recording an error (60_exceptions.md
R204) and clearing it (43_control.md R191), and hardware reset (70_reset_and_hazards.md R230). -/

namespace Sys2Proof.Machine

/-! ### Buffer memory -/

/-- What a buffer byte that is not listed reads as: no value, for it is unwritten (R34). -/
def Memory.unlisted (_address : Nat) : Option Byte := none

/-- The canonical form: offsets strictly rising, and no entry that an unlisted offset would read as
too. -/
abbrev Memory.wf (m : Memory) : Prop :=
  m.Pairwise (fun x y => x.1 < y.1) ∧ ∀ c ∈ m, Memory.unlisted c.1 ≠ some c.2

/-- The byte at an offset, none if it is unwritten. -/
def Memory.read (m : Memory) (address : Nat) : Option Byte :=
  match m with
  | [] => Memory.unlisted address
  | c :: rest => if c.1 = address then some c.2 else Memory.read rest address

/-- Write one byte, keeping the canonical form. -/
def Memory.write (m : Memory) (address : Nat) (v : Byte) : Memory :=
  match m with
  | [] => [(address, v)]
  | c :: rest =>
    if address < c.1 then (address, v) :: c :: rest
    else if c.1 = address then (address, v) :: rest
    else c :: Memory.write rest address v

/-- Byte `j` of a word: bits 8j+7 to 8j (R59). -/
def byteOf (w : Word) (j : Nat) : Byte := w.extractLsb' (8 * j) 8

/-- Write a buffer word, little-endian (R59). -/
def Memory.writeWord (m : Memory) (address : Nat) (w : Word) : Memory :=
  (((m.write address (byteOf w 0)).write (address + 1) (byteOf w 1)).write (address + 2) (byteOf w 2)).write
    (address + 3) (byteOf w 3)

/-- `{b3, b2, b1, b0}` (R59). -/
def wordOfBytes (b3 b2 b1 b0 : Byte) : Word := b3 ++ b2 ++ b1 ++ b0

/-- OLDBUF's first bus offset (R58). -/
def oldBase : Nat := 0x400

/-- NEWBUF's first bus offset (R58). -/
def newBase : Nat := 0x800

/-- The bus offset is a byte of OLDBUF or NEWBUF (R53, R58). -/
def isBufferByte (cfg : Config) (address : Nat) : Bool :=
  (decide (oldBase ≤ address) && decide (address < oldBase + cfg.bufDepth)) ||
    (decide (newBase ≤ address) && decide (address < newBase + cfg.bufDepth))

/-- The value of a buffer byte: what the host wrote, or the free RAM value (R34, R60; log 5). -/
def State.byteAt (s : State) (address : Nat) : Byte :=
  match s.mem.read address with
  | some b => b
  | none => Config.ramByte s.resets address

/-- The byte's written bit is 0 (R34). -/
def State.unwritten (s : State) (address : Nat) : Bool := (s.mem.read address).isNone

/-- The buffer word at an offset, little-endian (R59). -/
def State.wordAt (s : State) (address : Nat) : Word :=
  wordOfBytes (s.byteAt (address + 3)) (s.byteAt (address + 2)) (s.byteAt (address + 1)) (s.byteAt address)

/-- Record a model fault for each unwritten byte among those used, in the order of use (R15, R34,
R60; log 4). -/
def State.recordUnwritten (s : State) (used : List Nat) : State :=
  { s with faults := s.faults ++ (used.filter s.unwritten).map Fault.unwrittenByte }

/-! ### Errors -/

/-- The code of an error (60_exceptions.md R201). -/
def ErrorName.code : ErrorName → BitVec 4
  | .windowUnderflow => 1#4
  | .shrinkNotSupported => 2#4
  | .illegalCommand => 3#4
  | .countRange => 4#4
  | .lengthOverflow => 5#4
  | .busyViolation => 6#4
  | .badAccess => 7#4

/-- `raise E(info)` (60_exceptions.md R204): ERR becomes 1, and ERRCODE and ERRINFO are captured only
if ERR was 0 (R31, R205). The model's fault is recorded beside it (R206). -/
def raiseError (e : ErrorName) (info : Word) (s : State) : State :=
  { s with
    err := true
    errcode := if s.err then s.errcode else e.code
    errinfo := if s.err then s.errinfo else info
    faults := s.faults ++ [Fault.error e info] }

/-- What CLRERR clears, the only way out of an error but hardware reset (R191, R205). The model's
fault record stays (R191, R206). -/
def clearError (s : State) : State :=
  { s with err := false, errcode := 0#4, errinfo := 0#32 }

/-! ### The command in flight -/

/-- STATUS.BUSY: PEND holds a word (R30, R37). -/
def State.busy (s : State) : Bool := s.pend.isSome

/-- PEND <- w; BUSY <- 1 (30_encoding.md R84). -/
def accept (w : Word) (s : State) : State := { s with pend := some w }

/-- PEND <- none; BUSY <- 0 (R37). -/
def complete (s : State) : State := { s with pend := none }

/-! ### The window and reset -/

/-- The empty window with its cleared cache (42_window.md R150, 10_state.md R39). -/
def emptyWindow (s : State) : State :=
  { s with
    length := 0#64
    core := 0#32
    zc := 0#32
    oc := s.cfg.polyRev
    xpc := 0x80000000#32
    xpcN := 0 }

/-- Hardware reset (70_reset_and_hazards.md R230): every piece of the machine's state takes its value
of R39 and a command in flight is abandoned. The host's side and the model's fault record stay
(R206 "never cleared"); the buffers' contents are unspecified anew (log 5). -/
def hardwareReset (s : State) : State :=
  { State.resetOf s.cfg with
    host := s.host
    sched := s.sched
    answer := s.answer
    faults := s.faults
    resets := s.resets + 1 }

end Sys2Proof.Machine
end

