-- ==== Sys2Proof/Machine/Flags.lean ====
section
/-! DEFINITION. STATUS as the host reads it (10_state.md R30, R33): BUSY in bit 0, ERR in bit 1,
ERRCODE in bits 7:4, every other bit 0. CRCW has no other flag. -/

namespace Sys2Proof.Machine

/-- STATUS (R30), from bit 31 down: reserved, ERRCODE, reserved, ERR, BUSY. -/
def statusWord (s : State) : Word :=
  0#24 ++ s.errcode ++ 0#2 ++ BitVec.ofBool s.err ++ BitVec.ofBool s.busy

end Sys2Proof.Machine
end

