-- ==== Sys2Proof/WellFormed.lean ====
section
/-! DEFINITION. Which commands an encoding exists for (30_encoding.md R80, R83): the counts of a
WUPDATE fit their 11-bit fields. -/

namespace Sys2Proof

/-- A count fits the 11-bit field NOLD or NNEW (R80: 0 to 2047). -/
def countFits (n : Nat) : Bool := decide (n < 2048)

/-- The command has an encoding (R83: "with NOLD, NNEW < 2048"). -/
def Instr.wellFormed : Instr → Bool
  | .nop => true
  | .clrerr => true
  | .bstep => true
  | .mul8 => true
  | .mul32 => true
  | .wreset => true
  | .wupdate nold nnew => countFits nold && countFits nnew

end Sys2Proof
end

