-- ==== Sys2Proof/Decode.lean ====
section
/-! DEFINITION. Decoding of command words (30_encoding.md R80 to R85): total on all 32-bit words, each
illegal word rejected with a name, and the encoder written from the same fields. -/

namespace Sys2Proof

/-- Why a command word is not legal (R83, R85). All three are the error ILLEGAL_COMMAND. -/
inductive DecodeError where
  /-- RSV, bits 31:30, is not 0 -/
  | reservedBits
  /-- bits 7:0 are none of the seven opcodes -/
  | unassignedOpcode
  /-- NOLD or NNEW bits are set on a command other than WUPDATE -/
  | strayFields
  deriving DecidableEq, Repr

/-- Field OPC, bits 7:0 (R80). -/
def fieldOpc (w : Word) : Byte := w.extractLsb' 0 8

/-- Field NOLD, bits 18:8 (R80). -/
def fieldNold (w : Word) : BitVec 11 := w.extractLsb' 8 11

/-- Field NNEW, bits 29:19 (R80). -/
def fieldNnew (w : Word) : BitVec 11 := w.extractLsb' 19 11

/-- Field RSV, bits 31:30 (R80). -/
def fieldRsv (w : Word) : BitVec 2 := w.extractLsb' 30 2

/-- The commands that have exactly one legal word, by opcode (R82, R83). -/
def oneWordCommand (opc : Byte) : Option Instr :=
  if opc = 0x00#8 then some .nop
  else if opc = 0x01#8 then some .clrerr
  else if opc = 0x10#8 then some .bstep
  else if opc = 0x11#8 then some .mul8
  else if opc = 0x12#8 then some .mul32
  else if opc = 0x20#8 then some .wreset
  else none

/-- The command a word stands for, or why it is illegal (R83). The order in which several reasons
are looked for is the model's; every one of them is ILLEGAL_COMMAND (R85). -/
def decode (w : Word) : Except DecodeError Instr :=
  if fieldRsv w ≠ 0#2 then .error .reservedBits
  else if fieldOpc w = 0x21#8 then .ok (.wupdate (fieldNold w).toNat (fieldNnew w).toNat)
  else
    match oneWordCommand (fieldOpc w) with
    | none => .error .unassignedOpcode
    | some i => if w.extractLsb' 8 22 = 0#22 then .ok i else .error .strayFields

/-- The opcode of a command (R82). -/
def Instr.opcode : Instr → Byte
  | .nop => 0x00#8
  | .clrerr => 0x01#8
  | .bstep => 0x10#8
  | .mul8 => 0x11#8
  | .mul32 => 0x12#8
  | .wreset => 0x20#8
  | .wupdate _ _ => 0x21#8

/-- The operand bits of a command: NOLD << 8 | NNEW << 19 (R83). -/
def Instr.operandBits : Instr → Word
  | .nop => 0#32
  | .clrerr => 0#32
  | .bstep => 0#32
  | .mul8 => 0#32
  | .mul32 => 0#32
  | .wreset => 0#32
  | .wupdate nold nnew => (BitVec.ofNat 32 nold <<< 8) ||| (BitVec.ofNat 32 nnew <<< 19)

/-- The command word of a well-formed command (R83). -/
def encode (i : Instr) : Word := i.opcode.setWidth 32 ||| i.operandBits

/-- The host's view of the decoder: `nbits` bits of a table row, numbered from bit 0 of the one
command word; every bit from `nbits` up is 0. -/
def decodeTableWord (nbits w : Nat) : Option Instr :=
  let v := w % 2 ^ nbits
  if v < 2 ^ 32 then
    match decode (BitVec.ofNat 32 v) with
    | .ok i => some i
    | .error _ => none
  else none

end Sys2Proof
end

