-- ==== Sys2Proof/Machine/Operands.lean ====
section
/-! DEFINITION. Every operand form of a command (30_encoding.md R81, 10_state.md R22, R23): OPA as a
word, OPB as a word or its low byte, and byte sequences of OLDBUF and NEWBUF; and the one
destination register of the arithmetic commands, RESULT (R24). -/

namespace Sys2Proof.Machine

/-- OPA, all 32 bits (R22). -/
def operandA (s : State) : Word := s.opa

/-- OPB, all 32 bits, as MUL32 reads it (R23). -/
def operandB (s : State) : Word := s.opb

/-- OPB[7:0], as BSTEP and MUL8 read it; OPB[31:8] is ignored (R23). -/
def operandByte (s : State) : Byte := s.opb.extractLsb' 0 8

/-- OLDBUF[0 .. m−1] (20_memory.md R60). -/
def oldBytes (s : State) (m : Nat) : List Byte := (List.range m).map fun i => s.byteAt (oldBase + i)

/-- NEWBUF[0 .. n−1] (R60). -/
def newBytes (s : State) (n : Nat) : List Byte := (List.range n).map fun i => s.byteAt (newBase + i)

/-- The bus offsets of the buffer bytes that a WUPDATE of `m` old and `n` new bytes uses. -/
def usedOffsets (m n : Nat) : List Nat :=
  (List.range m).map (oldBase + ·) ++ (List.range n).map (newBase + ·)

/-- x[RESULT] <- v (R24). -/
def setResult (v : Word) (s : State) : State := { s with result := v }

end Sys2Proof.Machine
end

