-- ==== Sys2Proof/Machine/ByteStep.lean ====
section
/-! DEFINITION. The table, the byte-step CRC primitive and the command BSTEP (40_byte_step.md), and the
two checksums folded from it (00_scope.md R13). -/

namespace Sys2Proof.Machine

/-- One step of the table's construction: shift right by one, and XOR POLY_REV in when the bit shifted
out is 1 (R100). -/
def tableShift (polyRev c : Word) : Word :=
  if c.getLsbD 0 then (c >>> 1) ^^^ polyRev else c >>> 1

/-- TABLE[i] = c_8 from c_0 = zext_32(i) (R100). -/
def tableEntry (polyRev : Word) (i : Byte) : Word := (tableShift polyRev)^[8] (i.setWidth 32)

/-- TABLE, the read-only memory of 256 words that POLY_REV fixes (10_state.md R35, R231). -/
def table (polyRev : Word) : List Word :=
  (List.range 256).map fun i => tableEntry polyRev (BitVec.ofNat 8 i)

/-- Step(acc, b) = TABLE[acc[7:0] ^ b] ^ (acc >> 8) (R101). -/
def crcStep (polyRev acc : Word) (b : Byte) : Word :=
  tableEntry polyRev (acc.extractLsb' 0 8 ^^^ b) ^^^ (acc >>> 8)

/-- Unmasked(B): Step folded from 0, no final complement (00_scope.md R13). -/
def unmasked (polyRev : Word) (bytes : List Byte) : Word := bytes.foldl (crcStep polyRev) 0#32

/-- CRC32std(B): Step folded from ONES, then complemented (R13). -/
def crc32std (polyRev : Word) (bytes : List Byte) : Word :=
  bytes.foldl (crcStep polyRev) ones ^^^ ones

/-- BSTEP (R104): x[RESULT] <- Step(x[OPA], x[OPB][7:0]). -/
def execBstep (s : State) : Host.Outcome State Fault Refusal :=
  .next (setResult (crcStep s.cfg.polyRev (operandA s) (operandByte s)) s)

end Sys2Proof.Machine
end

