-- ==== Sys2Proof/Machine/Polymul.lean ====
section
/-! DEFINITION. The GF(2)[x] multipliers, the power of x and the commands MUL8 and MUL32
(41_polymul.md), each as its datapath over TABLE. -/

namespace Sys2Proof.Machine

/-- X of R120: the XOR of `zext_64(crc) << i` over the set bits i of val. -/
def mul8Product (crc : Word) (val : Byte) : Dword :=
  (List.range 8).foldl
    (fun x i => if val.getLsbD i then x ^^^ (crc.setWidth 64 <<< i) else x) 0#64

/-- Mul8(crc, val) = trunc_32(zext_64(TABLE[Y[7:0]]) ^ (Y >> 8)) with Y = X << 1 (R120). -/
def mul8 (polyRev crc : Word) (val : Byte) : Word :=
  let y := mul8Product crc val <<< 1
  ((tableEntry polyRev (y.extractLsb' 0 8)).setWidth 64 ^^^ (y >>> 8)).setWidth 32

/-- One byte-reduction step of R121: ACC = (ACC >> 8) ^ zext_64(TABLE[ACC[7:0]]). -/
def reduceByte (polyRev : Word) (acc : Dword) : Dword :=
  (acc >>> 8) ^^^ (tableEntry polyRev (acc.extractLsb' 0 8)).setWidth 64

/-- ACC of R121 before its reduction: the partial product of byte k of `b` at bit 8k. -/
def mul32Product (polyRev a b : Word) : Dword :=
  (List.range 4).foldl
    (fun acc k => acc ^^^ ((mul8 polyRev a (byteOf b k)).setWidth 64 <<< (8 * k))) 0#64

/-- Mul32(a, b): the product, three byte-reduction steps, trunc_32 (R121). -/
def mul32 (polyRev a b : Word) : Word :=
  ((reduceByte polyRev)^[3] (mul32Product polyRev a b)).setWidth 32

/-- XPow(n): XPow(0) = 0x80000000, XPow(n+1) = Step(XPow(n), 0x00) (R122). -/
def xpow (polyRev : Word) : Nat → Word
  | 0 => 0x80000000#32
  | n + 1 => crcStep polyRev (xpow polyRev n) 0#8

/-- MUL8 (R130): x[RESULT] <- Mul8(x[OPA], x[OPB][7:0]). -/
def execMul8 (s : State) : Host.Outcome State Fault Refusal :=
  .next (setResult (mul8 s.cfg.polyRev (operandA s) (operandByte s)) s)

/-- MUL32 (R131): x[RESULT] <- Mul32(x[OPA], x[OPB]). -/
def execMul32 (s : State) : Host.Outcome State Fault Refusal :=
  .next (setResult (mul32 s.cfg.polyRev (operandA s) (operandB s)) s)

end Sys2Proof.Machine
end

