-- ==== Sys2Proof/Machine/Window.lean ====
section
/-! DEFINITION. The rolling window (42_window.md): the acceptance checks, WRESET, WUPDATE with the
power-of-x cache, and the SUM view. -/

namespace Sys2Proof.Machine

/-- SUM = CORE ^ ZC (10_state.md R29, 42_window.md R175). -/
def sumView (s : State) : Word := s.core ^^^ s.zc

/-- The preconditions of a WUPDATE in their order (R161, 30_encoding.md R84): the first that fails
names the error. -/
def updateCheck (nold nnew : Nat) (s : State) : Option ErrorName :=
  if s.cfg.bufDepth < nold ∨ s.cfg.bufDepth < nnew then some .countRange
  else if s.length.toNat < nold then some .windowUnderflow
  else if nnew < nold then some .shrinkNotSupported
  else if 2 ^ 64 - 1 < s.length.toNat + (nnew - nold) then some .lengthOverflow
  else none

/-- The checks R84 makes on a legal command before it accepts it: only WUPDATE has any. -/
def acceptCheck (i : Instr) (s : State) : Option ErrorName :=
  match i with
  | .nop => none
  | .clrerr => none
  | .bstep => none
  | .mul8 => none
  | .mul32 => none
  | .wreset => none
  | .wupdate nold nnew => updateCheck nold nnew s

/-- WRESET (R150). -/
def execWreset (s : State) : Host.Outcome State Fault Refusal := .next (emptyWindow s)

/-- Step 1 of R162: for each pair, `core = Step(core ^ Mul8(OC, o), b)`. -/
def slideCore (polyRev oc : Word) (pairs : List (Byte × Byte)) (core : Word) : Word :=
  pairs.foldl (fun c p => crcStep polyRev (c ^^^ mul8 polyRev oc p.1) p.2) core

/-- The surplus bytes of step 2 of R162, folded in with Step. -/
def extendCore (polyRev : Word) (bytes : List Byte) (core : Word) : Word :=
  bytes.foldl (crcStep polyRev) core

/-- XPow(k) through the power-of-x cache (R170): reuse, grow by the delta, or start again. -/
def cachedPower (s : State) (k : Nat) : Word :=
  if k = s.xpcN then s.xpc
  else if s.xpcN < k then (fun c => crcStep s.cfg.polyRev c 0#8)^[k - s.xpcN] s.xpc
  else xpow s.cfg.polyRev k

/-- CORE after the paired portion and the surplus of a WUPDATE (R162). -/
def updatedCore (nold nnew : Nat) (s : State) : Word :=
  let news := newBytes s nnew
  extendCore s.cfg.polyRev (news.drop nold)
    (slideCore s.cfg.polyRev s.oc ((oldBytes s nold).zip news) s.core)

/-- The rescaling of step 2 of R162 when the window grows by `k > 0`, from the values before the
command, with the seed of R167 at length 0 and the cache left by R170. -/
def growWindow (k : Nat) (s : State) : State :=
  let xp := cachedPower s k
  { s with
    zc := ~~~(mul32 s.cfg.polyRev (~~~s.zc) xp)
    oc := mul32 s.cfg.polyRev (if s.length = 0#64 then 0x00000080#32 else s.oc) xp
    length := s.length + BitVec.ofNat 64 k
    xpc := xp
    xpcN := k }

/-- The effect of a WUPDATE whose preconditions hold (R162), with a fault recorded for every unwritten
byte it uses (R34, R60). -/
def updateWindow (nold nnew : Nat) (s : State) : State :=
  let core' := updatedCore nold nnew s
  let s1 := s.recordUnwritten (usedOffsets nold nnew)
  let s2 := if nnew - nold = 0 then s1 else growWindow (nnew - nold) s1
  { s2 with core := core' }

/-- WUPDATE (R160 to R167). Where a precondition of R161 does not hold the command does not run and
raises the first error in their order; acceptance has made the same checks already (R84), so a
command in flight never does (log 6). -/
def execWupdate (nold nnew : Nat) (s : State) : Host.Outcome State Fault Refusal :=
  match updateCheck nold nnew s with
  | some e => .next (raiseError e (encode (.wupdate nold nnew)) s)
  | none => .next (updateWindow nold nnew s)

end Sys2Proof.Machine
end

