-- ==== Sys2Proof/Machine/Bus.lean ====
section
/-! DEFINITION. The bus (20_memory.md): the address map, what a host read answers, what a host write
does, and the acceptance of a command written to CMD (30_encoding.md R84). -/

namespace Sys2Proof.Machine

/-- The registers of the address map (R53). -/
inductive RegName where
  | cmd
  | status
  | opa
  | opb
  | result
  | sum
  | core
  | zc
  | oc
  | lengthLo
  | lengthHi
  | poly
  | errinfo
  deriving DecidableEq, Repr

/-- What an aligned offset of the bus space is (R53). -/
inductive Region where
  | reg (r : RegName)
  | buffer
  | reserved
  deriving DecidableEq, Repr

/-- The byte offset of a register (R53). -/
def RegName.offset : RegName → Offset
  | .cmd => 0x000#12
  | .status => 0x004#12
  | .opa => 0x008#12
  | .opb => 0x00C#12
  | .result => 0x010#12
  | .sum => 0x014#12
  | .core => 0x018#12
  | .zc => 0x01C#12
  | .oc => 0x020#12
  | .lengthLo => 0x024#12
  | .lengthHi => 0x028#12
  | .poly => 0x02C#12
  | .errinfo => 0x030#12

/-- The registers of the map, in its order (R53). -/
def RegName.all : List RegName :=
  [.cmd, .status, .opa, .opb, .result, .sum, .core, .zc, .oc, .lengthLo, .lengthHi, .poly, .errinfo]

/-- The address map (R53). -/
def regionOf (cfg : Config) (addr : Offset) : Region :=
  match RegName.all.find? (fun r => decide (r.offset = addr)) with
  | some r => .reg r
  | none => if isBufferByte cfg addr.toNat then .buffer else .reserved

/-- Every access must be four bytes at a multiple of four (R54). -/
def wholeWord (addr : Offset) (size : AccessSize) : Bool :=
  decide (size = .four) && decide (addr.extractLsb' 0 2 = 0#2)

/-- "host read returns" of R53, for a register. -/
def readRegister (r : RegName) (s : State) : Word :=
  match r with
  | .cmd => 0#32
  | .status => statusWord s
  | .opa => s.opa
  | .opb => s.opb
  | .result => s.result
  | .sum => sumView s
  | .core => s.core
  | .zc => s.zc
  | .oc => s.oc
  | .lengthLo => s.length.extractLsb' 0 32
  | .lengthHi => s.length.extractLsb' 32 32
  | .poly => s.cfg.polyRev
  | .errinfo => s.errinfo

/-- The transaction answers `a` (R51). -/
def answerWith (a : BusAnswer) (s : State) : State := { s with answer := some a }

/-- BAD_ACCESS or BUSY_VIOLATION on an access: the error is recorded with ERRINFO = zext_32(addr), and
the access answers `a` and does nothing else (R54, R57, 60_exceptions.md R204). -/
def refuseAccess (e : ErrorName) (addr : Offset) (a : BusAnswer) (s : State) : State :=
  answerWith a (raiseError e (addr.setWidth 32) s)

/-- A host read (R54, R55), at any time. -/
def hostRead (addr : Offset) (size : AccessSize) (s : State) : State :=
  if wholeWord addr size then
    match regionOf s.cfg addr with
    | .reg r => answerWith (.read (readRegister r s) .ok) s
    | .buffer =>
      answerWith (.read (s.wordAt addr.toNat) .ok)
        (s.recordUnwritten [addr.toNat, addr.toNat + 1, addr.toNat + 2, addr.toNat + 3])
    | .reserved => refuseAccess .badAccess addr (.read 0#32 .err) s
  else refuseAccess .badAccess addr (.read 0#32 .err) s

/-- A command word presented by a CMD write that finds BUSY = 0 (30_encoding.md R84). -/
def issueCommand (w : Word) (s : State) : State :=
  match decode w with
  | .error _ => raiseError .illegalCommand w s
  | .ok i =>
    match acceptCheck i s with
    | some e => raiseError e w s
    | none => accept w s

/-- "host write does" of R53: the effect of a write to this region, none where it may not be written. -/
def writeEffect (region : Region) (addr : Offset) (w : Word) (s : State) : Option State :=
  match region with
  | .reg .cmd => some (issueCommand w s)
  | .reg .opa => some { s with opa := w }
  | .reg .opb => some { s with opb := w }
  | .buffer => some { s with mem := s.mem.writeWord addr.toNat w }
  | .reg .status => none
  | .reg .result => none
  | .reg .sum => none
  | .reg .core => none
  | .reg .zc => none
  | .reg .oc => none
  | .reg .lengthLo => none
  | .reg .lengthHi => none
  | .reg .poly => none
  | .reg .errinfo => none
  | .reserved => none

/-- A host write, with its checks in the order of R56. -/
def hostWrite (addr : Offset) (size : AccessSize) (w : Word) (s : State) : State :=
  if wholeWord addr size then
    match writeEffect (regionOf s.cfg addr) addr w s with
    | none => refuseAccess .badAccess addr (.write .err) s
    | some t =>
      if s.busy then refuseAccess .busyViolation addr (.write .err) s
      else answerWith (.write .ok) t
  else refuseAccess .badAccess addr (.write .err) s

/-- One bus transaction (R51). -/
def access (t : Transaction) (s : State) : State :=
  match t with
  | .read addr size => hostRead addr size s
  | .write addr size w => hostWrite addr size w s

/-- A poll's read gave the value it waits for (30_encoding.md R86). -/
def pollSatisfied (mask value : Word) (a : Option BusAnswer) : Bool :=
  match a with
  | some (.read d _) => decide (d &&& mask = value)
  | some (.write _) => false
  | none => false

/-- The host's step: its next transaction, or one more read of the poll it is at; nothing when it has
no operation left (R14, R64, R86). -/
def hostStep (s : State) : State :=
  match s.host with
  | [] => s
  | .tx t :: rest => access t { s with host := rest }
  | .poll addr mask value :: rest =>
    let t := access (.read addr .four) s
    if pollSatisfied mask value t.answer then { t with host := rest } else t

end Sys2Proof.Machine
end

