-- ==== Sys2Proof/Machine/Control.lean ====
section
/-! DEFINITION. The control commands NOP and CLRERR (43_control.md), at completion. -/

namespace Sys2Proof.Machine

/-- NOP (R190): no state change. -/
def execNop (s : State) : Host.Outcome State Fault Refusal := .next s

/-- CLRERR (R191): ERR, ERRCODE and ERRINFO become 0. -/
def execClrerr (s : State) : Host.Outcome State Fault Refusal := .next (clearError s)

end Sys2Proof.Machine
end

