-- ==== Sys2Proof/Machine/Dispatch.lean ====
section
/-! DEFINITION. exec: the meaning of each command, what its completion does (10_state.md R37). -/

namespace Sys2Proof.Machine

-- One arm per constructor of Instr, in the table's order (30_encoding.md R82).
def exec (i : Instr) (s : State) : Host.Outcome State Fault Refusal :=
  match i with
  | .nop => Sys2Proof.Machine.execNop s
  | .clrerr => Sys2Proof.Machine.execClrerr s
  | .bstep => Sys2Proof.Machine.execBstep s
  | .mul8 => Sys2Proof.Machine.execMul8 s
  | .mul32 => Sys2Proof.Machine.execMul32 s
  | .wreset => Sys2Proof.Machine.execWreset s
  | .wupdate nold nnew => Sys2Proof.Machine.execWupdate nold nnew s

end Sys2Proof.Machine
end

