-- ==== Sys2Proof/Machine/Engine.lean ====
section
/-! DEFINITION. The engine's completion step (10_state.md R37) and the choice of the agent that moves
next (20_memory.md R64). -/

namespace Sys2Proof.Machine

/-- Complete the command in flight: PEND becomes none and the command's rule is performed in full
(R37). With no command in flight the engine has nothing to do. A word in PEND that is not legal gets
the verdict of R85; acceptance keeps it out (log 6). -/
def engineStep (s : State) : Host.Outcome State Fault Refusal :=
  match s.pend with
  | none => .next s
  | some w =>
    match decode w with
    | .ok i => exec i (complete s)
    | .error _ => .next (raiseError .illegalCommand w (complete s))

/-- Who moves next: the schedule's next entry; when it has none left, the engine if a command is in
flight, else the host (R64, R243; log 1). -/
def nextAgent (s : State) : Agent :=
  match s.sched with
  | a :: _ => a
  | [] => if s.busy then .engine else .host

/-- The schedule's next entry is used up. -/
def takeTurn (s : State) : State := { s with sched := s.sched.tail }

/-- A command word in flight with the engine to move: where the next completion finds its command
(R37). -/
def placeCommand (w : Word) (s : State) : State :=
  { s with pend := some w, sched := .engine :: s.sched }

end Sys2Proof.Machine
end

