-- ==== Sys2Proof/Machine/Step.lean ====
section
/-! DEFINITION. One step of the block and its host (00_scope.md R14), and where a step finds the command
it runs. -/

namespace Sys2Proof.Machine

/-- One step of the agent that moves next. -/
def step (s : State) : Host.Outcome State Fault Refusal :=
  match nextAgent s with
  | .host => .next (hostStep (takeTurn s))
  | .engine => engineStep (takeTurn s)
  | .reset => .next (hardwareReset (takeTurn s))

/-- `s` with the command word `w` (its `nbits` low bits) in PEND and the engine to move, so that the
next step completes exactly that command (log 7). -/
def State.withFetchWord (s : State) (nbits w : Nat) : State :=
  placeCommand (BitVec.ofNat 32 (w % 2 ^ nbits)) s

end Sys2Proof.Machine
end

