-- ==== Sys2Proof/Machine/Script.lean ====
section
/-! DEFINITION. Host scripts (30_encoding.md R86, R87): their lines and pseudo-instructions, expanded
to the operations of `State.host`. -/

namespace Sys2Proof.Machine

/-- OLDBUF or NEWBUF. -/
inductive BufName where
  | oldbuf
  | newbuf
  deriving DecidableEq, Repr

/-- A target of a script line (R86). -/
inductive Target where
  | reg (r : RegName)
  | buf (b : BufName) (k : Nat)
  | raw (addr : Offset)
  deriving DecidableEq, Repr

/-- A script line or pseudo-instruction (R86, R87). -/
inductive ScriptLine where
  /-- `WR t, v` -/
  | wr (t : Target) (v : Word)
  /-- `RD t` -/
  | rd (t : Target)
  /-- `RD t == v`: "a test assertion, not a hardware action", so the same read -/
  | rdIs (t : Target) (v : Word)
  /-- `POLL t, m, v` -/
  | poll (t : Target) (m v : Word)
  /-- `CMD <command>` -/
  | cmd (i : Instr)
  /-- `WAIT` -/
  | wait
  /-- `DO <command>` -/
  | doCmd (i : Instr)
  /-- `LOADB buf, k, b0, b1, …` -/
  | loadb (b : BufName) (k : Nat) (bytes : List Byte)
  /-- `CALL update m, n` -/
  | callUpdate (m n : Nat)
  /-- `CALL sum` -/
  | callSum
  /-- `CALL reset` -/
  | callReset
  deriving DecidableEq, Repr

/-- Why a script is refused (R87). -/
inductive ScriptError where
  /-- a WUPDATE count does not fit its field -/
  | countDoesNotFit
  /-- a buffer target's k is no multiple of 4, or its offset does not fit 12 bits -/
  | badBufferOffset
  deriving DecidableEq, Repr

/-- The first bus offset of a buffer (20_memory.md R58). -/
def BufName.base : BufName → Nat
  | .oldbuf => oldBase
  | .newbuf => newBase

/-- `addr(t)` (R86). -/
def Target.addr : Target → Except ScriptError Offset
  | .reg r => .ok r.offset
  | .raw a => .ok a
  | .buf b k =>
    if k % 4 = 0 ∧ b.base + k < 0x1000 then .ok (BitVec.ofNat 12 (b.base + k))
    else .error .badBufferOffset

/-- `(write, addr(t), 4, v)` (R86). -/
def writeOp (t : Target) (v : Word) : Except ScriptError HostOp :=
  match t.addr with
  | .ok a => .ok (.tx (.write a .four v))
  | .error e => .error e

/-- `(read, addr(t), 4, –)` (R86). -/
def readOp (t : Target) : Except ScriptError HostOp :=
  match t.addr with
  | .ok a => .ok (.tx (.read a .four))
  | .error e => .error e

/-- `CMD <command>`: the write of its word to CMD (R87); refused where a count does not fit. -/
def commandOp (i : Instr) : Except ScriptError HostOp :=
  if i.wellFormed then writeOp (.reg .cmd) (encode i) else .error .countDoesNotFit

/-- `WAIT` = `POLL STATUS, 0x1, 0x0` (R87). -/
def waitOp : HostOp := .poll RegName.status.offset 1#32 0#32

/-- The words of a LOADB, little-endian, the last one padded with 0x00 (R87). -/
def loadWords : List Byte → List Word
  | [] => []
  | [b0] => [wordOfBytes 0#8 0#8 0#8 b0]
  | [b0, b1] => [wordOfBytes 0#8 0#8 b1 b0]
  | [b0, b1, b2] => [wordOfBytes 0#8 b2 b1 b0]
  | b0 :: b1 :: b2 :: b3 :: rest => wordOfBytes b3 b2 b1 b0 :: loadWords rest

/-- The writes of a LOADB: word q goes to `buf + (k + 4q)` (R87). -/
def loadOps (b : BufName) (k : Nat) : List Word → Except ScriptError (List HostOp)
  | [] => .ok []
  | w :: rest =>
    match writeOp (.buf b k) w, loadOps b (k + 4) rest with
    | .ok op, .ok ops => .ok (op :: ops)
    | .error e, _ => .error e
    | _, .error e => .error e

/-- One operation, as a list. -/
def single (op : Except ScriptError HostOp) : Except ScriptError (List HostOp) :=
  match op with
  | .ok o => .ok [o]
  | .error e => .error e

/-- `DO <command>` = `CMD <command>` then `WAIT` (R87). -/
def doOps (i : Instr) : Except ScriptError (List HostOp) :=
  match commandOp i with
  | .ok o => .ok [o, waitOp]
  | .error e => .error e

/-- The operations of one line (R86, R87). -/
def ScriptLine.expand : ScriptLine → Except ScriptError (List HostOp)
  | .wr t v => single (writeOp t v)
  | .rd t => single (readOp t)
  | .rdIs t _ => single (readOp t)
  | .poll t m v =>
    match t.addr with
    | .ok a => .ok [.poll a m v]
    | .error e => .error e
  | .cmd i => single (commandOp i)
  | .wait => .ok [waitOp]
  | .doCmd i => doOps i
  | .loadb b k bytes => if k % 4 = 0 then loadOps b k (loadWords bytes) else .error .badBufferOffset
  | .callUpdate m n => doOps (.wupdate m n)
  | .callSum => single (readOp (.reg .sum))
  | .callReset => doOps .wreset

/-- The operations of a script, or the first reason it is refused. -/
def expandScript : List ScriptLine → Except ScriptError (List HostOp)
  | [] => .ok []
  | l :: rest =>
    match l.expand, expandScript rest with
    | .ok ops, .ok more => .ok (ops ++ more)
    | .error e, _ => .error e
    | _, .error e => .error e

/-- Give the host a script to run after what it already has to do. -/
def State.loadScript (s : State) (lines : List ScriptLine) : Except ScriptError State :=
  match expandScript lines with
  | .ok ops => .ok { s with host := s.host ++ ops }
  | .error e => .error e

end Sys2Proof.Machine
end

