-- ==== Sys2Proof/Safety.lean ====
section
/-! DEFINITION. The terms the claims about CRCW are stated in: the invariant of the machine, the run
without a recorded fault (60_exceptions.md R206), the ghost window (10_state.md R38) and the
polynomials that words stand for (00_scope.md R10, R11). -/

namespace Sys2Proof.Machine

/-! ### Safe runs and the invariant -/

/-- No fault has been recorded: the premise a claim about a host script carries (R206). -/
abbrev noFault (s : State) : Prop := s.faults = []

/-- ZC for a window of `len` bytes: the CRC of that many zero bytes (10_state.md R28). -/
def zcOfLength (polyRev : Word) (len : Nat) : Word := crc32std polyRev (List.replicate len 0#8)

/-- OC for a window of `len` bytes: x^(32 + 8·(max(len,1) − 1)) mod G, as XPow gives it (R27,
41_polymul.md R125). -/
def ocOfLength (polyRev : Word) (len : Nat) : Word := xpow polyRev (4 + (max len 1 - 1))

/-- What holds of the machine in every state a run can reach. -/
structure MachineInv (s : State) : Prop where
  /-- the buffer memory is in its canonical form -/
  memCanonical : s.mem.wf
  /-- only buffer bytes are listed (R34, 20_memory.md R58) -/
  memInBuffers : ∀ c ∈ s.mem, isBufferByte s.cfg c.1 = true
  /-- ERRCODE and ERRINFO are 0 while ERR is 0 (R30, R31) -/
  errorClear : s.err = false → s.errcode = 0#4 ∧ s.errinfo = 0#32
  /-- ERRCODE is 1 to 7 while ERR is 1 (60_exceptions.md R202) -/
  errorCode : s.err = true → 1 ≤ s.errcode.toNat ∧ s.errcode.toNat ≤ 7
  /-- an error is a recorded fault (60_exceptions.md R206) -/
  errorIsFault : s.err = true → s.faults ≠ []
  /-- XPC = XPow(XPC_N) (R36) -/
  cachePower : s.xpc = xpow s.cfg.polyRev s.xpcN
  /-- XPC_N is 0 to BUF_DEPTH (R36) -/
  cacheBound : s.xpcN ≤ s.cfg.bufDepth
  /-- ZC is that of the window's length (R28) -/
  zcLength : s.zc = zcOfLength s.cfg.polyRev s.length.toNat
  /-- OC is that of the window's length (R27) -/
  ocLength : s.oc = ocOfLength s.cfg.polyRev s.length.toNat
  /-- a command in flight is one that acceptance let in (30_encoding.md R84) -/
  pending : ∀ w, s.pend = some w → ∃ i, decode w = .ok i ∧ acceptCheck i s = none

/-! ### The ghost window (R38) -/

/-- LENGTH and CORE are those of a window holding the bytes `win` (R26, R38). -/
def Holds (win : List Byte) (s : State) : Prop :=
  s.length.toNat = win.length ∧ s.core = unmasked s.cfg.polyRev win

/-- The command that the next step completes, if it completes one. -/
def completing (s : State) : Option Instr :=
  match nextAgent s, s.pend with
  | .engine, some w => (decode w).toOption
  | _, _ => none

/-- The window after a command: WRESET empties it, WUPDATE drops the first NOLD bytes and appends the
new ones, and no other command changes it (R38). -/
def windowAfter (i : Instr) (win : List Byte) (s : State) : List Byte :=
  match i with
  | .nop => win
  | .clrerr => win
  | .bstep => win
  | .mul8 => win
  | .mul32 => win
  | .wreset => []
  | .wupdate nold nnew => win.drop nold ++ newBytes s nnew

/-- The caller contract of a command: a WUPDATE's old bytes are the window's first bytes (R38). -/
def contractOf (i : Instr) (win : List Byte) (s : State) : Prop :=
  match i with
  | .nop => True
  | .clrerr => True
  | .bstep => True
  | .mul8 => True
  | .mul32 => True
  | .wreset => True
  | .wupdate nold _ => oldBytes s nold = win.take nold

/-- The window after a step: hardware reset empties it (R38). -/
def ghostStep (win : List Byte) (s : State) : List Byte :=
  match nextAgent s, completing s with
  | .reset, _ => []
  | _, some i => windowAfter i win s
  | _, none => win

/-- The next step keeps the caller contract. -/
def contractStep (win : List Byte) (s : State) : Prop :=
  match completing s with
  | some i => contractOf i win s
  | none => True

/-- The window after `k` steps. -/
def ghostRun : Nat → List Byte → State → List Byte
  | 0, win, _ => win
  | k + 1, win, s =>
    match step s with
    | .next t => ghostRun k (ghostStep win s) t
    | .fault _ => win
    | .refused _ => win

/-- Each of the next `k` steps keeps the caller contract. -/
def contractRun : Nat → List Byte → State → Prop
  | 0, _, _ => True
  | k + 1, win, s =>
    contractStep win s ∧
      match step s with
      | .next t => contractRun k (ghostStep win s) t
      | .fault _ => True
      | .refused _ => True

/-! ### Polynomials over GF(2) (R10, R11) -/

open Polynomial in
/-- ρ32(w) = Σ w[i] · x^(31−i) (R10). -/
noncomputable def rho32 (w : Word) : (ZMod 2)[X] :=
  ∑ i ∈ Finset.range 32, if w.getLsbD i then X ^ (31 - i) else 0

open Polynomial in
/-- ρ8(b) = Σ b[j] · x^(7−j) (R10). -/
noncomputable def rho8 (b : Byte) : (ZMod 2)[X] :=
  ∑ j ∈ Finset.range 8, if b.getLsbD j then X ^ (7 - j) else 0

open Polynomial in
/-- G(x) = x^32 + ρ32(POLY_REV) (R11). -/
noncomputable def generator (polyRev : Word) : (ZMod 2)[X] := X ^ 32 + rho32 polyRev

open Polynomial in
/-- M_B = Σ ρ8(b_i) · x^(8(n−1−i)): the first byte has the highest powers (R13). -/
noncomputable def messagePoly (bytes : List Byte) : (ZMod 2)[X] :=
  ∑ i : Fin bytes.length, rho8 bytes[i] * X ^ (8 * (bytes.length - 1 - i))

end Sys2Proof.Machine
end

