-- ==== Sys2Proof/Certificates/Slice0/Obligations.lean ====
section
/-! DEFINITION. The statements about CRCW for the provers: first the words they use, then one
`def Obligations.<Name> : Prop` each, in the order of OBLIGATIONS.json. A statement's docstring names
the rules of spec/ it formalises. -/

open Sys2Proof Sys2Proof.Machine Polynomial

namespace Sys2Proof.Claims

/-- The state in which the host is to move and its next operation is the transaction `t`. -/
def hostTurn (q : List Agent) (r : List HostOp) (t : Transaction) (s : State) : State :=
  { s with sched := .host :: q, host := .tx t :: r }

/-- `t` after such a turn that answered `a`. -/
def answered (q : List Agent) (r : List HostOp) (a : BusAnswer) (t : State) : State :=
  { t with sched := q, host := r, answer := some a }

/-- `s` with the error `e` of code `code` recorded (60_exceptions.md R204, R206), the record update
written out. -/
def recorded (e : ErrorName) (code : BitVec 4) (info : Word) (s : State) : State :=
  { s with
    err := true
    errcode := if s.err then s.errcode else code
    errinfo := if s.err then s.errinfo else info
    faults := s.faults ++ [Fault.error e info] }

/-- A whole-word host write of `w` to CMD. -/
def cmdWrite (w : Word) : Transaction := .write 0x000#12 .four w

/-- The WUPDATE word: 0x00000021 | NOLD<<8 | NNEW<<19 (30_encoding.md R83). -/
def updateWord (m n : Nat) : Word :=
  0x00000021#32 ||| (BitVec.ofNat 32 m <<< 8) ||| (BitVec.ofNat 32 n <<< 19)

/-- An aligned read of `addr` answers `v` with OK and does nothing else, in every state. -/
def readAnswers (addr : Offset) (v : Word) (s : State) : Prop :=
  ∀ q r, step (hostTurn q r (.read addr .four) s) = .next (answered q r (.read v .ok) s)

/-- A read of this size answers 0 with ERR and records BAD_ACCESS, and does nothing else. -/
def readIsBad (addr : Offset) (size : AccessSize) (s : State) : Prop :=
  ∀ q r, step (hostTurn q r (.read addr size) s)
    = .next (answered q r (.read 0#32 .err) (recorded .badAccess 7#4 (addr.setWidth 32) s))

/-- A write of this size is dropped, answers ERR and records BAD_ACCESS. -/
def writeIsBad (addr : Offset) (size : AccessSize) (s : State) : Prop :=
  ∀ q r w, step (hostTurn q r (.write addr size w) s)
    = .next (answered q r (.write .err) (recorded .badAccess 7#4 (addr.setWidth 32) s))

/-- The offset is an aligned word of OLDBUF or NEWBUF (20_memory.md R53, R58). -/
def isBufferWord (cfg : Config) (addr : Offset) : Prop :=
  addr.toNat % 4 = 0 ∧
    ((0x400 ≤ addr.toNat ∧ addr.toNat < 0x400 + cfg.bufDepth) ∨
      (0x800 ≤ addr.toNat ∧ addr.toNat < 0x800 + cfg.bufDepth))

/-- The offset is in a reserved range of R53. -/
def isReserved (cfg : Config) (addr : Offset) : Prop :=
  (0x034 ≤ addr.toNat ∧ addr.toNat ≤ 0x3FF) ∨
    (0x400 + cfg.bufDepth ≤ addr.toNat ∧ addr.toNat ≤ 0x7FF) ∨ 0x800 + cfg.bufDepth ≤ addr.toNat

/-- The registers of R53 that the host may only read. -/
def readOnlyOffsets : List Offset :=
  [0x004#12, 0x010#12, 0x014#12, 0x018#12, 0x01C#12, 0x020#12, 0x024#12, 0x028#12, 0x02C#12, 0x030#12]

/-- STATUS from its fields: BUSY | ERR<<1 | ERRCODE<<4 (10_state.md R30). -/
def statusValue (s : State) : Word :=
  (if s.pend = none then 0#32 else 1#32) ||| (if s.err then 2#32 else 0#32) ||| (s.errcode.setWidth 32 <<< 4)

/-- The preconditions of a WUPDATE (42_window.md R161). -/
def updateReady (m n : Nat) (s : State) : Prop :=
  m ≤ s.cfg.bufDepth ∧ n ≤ s.cfg.bufDepth ∧ m ≤ s.length.toNat ∧ m ≤ n ∧
    s.length.toNat + (n - m) ≤ 2 ^ 64 - 1

/-- Every buffer byte that a WUPDATE of `m` and `n` bytes uses has been written. -/
def allWritten (m n : Nat) (s : State) : Prop :=
  (∀ i < m, s.mem.read (0x400 + i) ≠ none) ∧ ∀ i < n, s.mem.read (0x800 + i) ≠ none

/-- The loop of step 1 of R162 after `i` rounds. -/
def pairedCore (polyRev oc : Word) (old new : Nat → Byte) (core : Word) : Nat → Word
  | 0 => core
  | i + 1 =>
    crcStep polyRev (pairedCore polyRev oc old new core i ^^^ mul8 polyRev oc (old i)) (new i)

/-- The loop of step 2 of R162 after `j` rounds, over the new bytes from position `m` on. -/
def surplusCore (polyRev : Word) (new : Nat → Byte) (m : Nat) (core : Word) : Nat → Word
  | 0 => core
  | j + 1 => crcStep polyRev (surplusCore polyRev new m core j) (new (m + j))

/-- The window registers, the hidden cache and the configuration agree. -/
def sameWindow (s t : State) : Prop :=
  s.cfg = t.cfg ∧ s.length = t.length ∧ s.core = t.core ∧ s.zc = t.zc ∧ s.oc = t.oc ∧
    s.xpc = t.xpc ∧ s.xpcN = t.xpcN

/-- The buffer bytes that a command uses agree. -/
def sameOperandBytes (i : Instr) (s t : State) : Prop :=
  match i with
  | .nop => True
  | .clrerr => True
  | .bstep => True
  | .mul8 => True
  | .mul32 => True
  | .wreset => True
  | .wupdate m n =>
    (∀ k < m, s.byteAt (0x400 + k) = t.byteAt (0x400 + k)) ∧
      ∀ k < n, s.byteAt (0x800 + k) = t.byteAt (0x800 + k)

/-- One command after another, each completed. -/
def execAll : List Instr → State → Host.Outcome State Fault Refusal
  | [], s => .next s
  | i :: rest, s =>
    match exec i s with
    | .next t => execAll rest t
    | .fault f => .fault f
    | .refused f => .refused f

/-- Slides by one byte: each pair is put at the start of OLDBUF and NEWBUF and WUPDATE 1, 1 runs. -/
def slideOneByOne : List (Byte × Byte) → State → Host.Outcome State Fault Refusal
  | [], s => .next s
  | p :: rest, s =>
    match exec (.wupdate 1 1) { s with mem := (s.mem.write 0x400 p.1).write 0x800 p.2 } with
    | .next t => slideOneByOne rest t
    | .fault f => .fault f
    | .refused f => .refused f

/-- Growth by one byte: each byte is put at the start of NEWBUF and WUPDATE 0, 1 runs. -/
def growOneByOne : List Byte → State → Host.Outcome State Fault Refusal
  | [], s => .next s
  | b :: rest, s =>
    match exec (.wupdate 0 1) { s with mem := s.mem.write 0x800 b } with
    | .next t => growOneByOne rest t
    | .fault f => .fault f
    | .refused f => .refused f

/-- LENGTH, CORE, ZC and OC agree. -/
def sameVisibleWindow (s t : State) : Prop :=
  s.length = t.length ∧ s.core = t.core ∧ s.zc = t.zc ∧ s.oc = t.oc

/-- The default table as 40_byte_step.md R100 prints it. -/
def printedTable : List Word :=
  [0x00000000#32, 0x77073096#32, 0xEE0E612C#32, 0x990951BA#32, 0x076DC419#32, 0x706AF48F#32, 0xE963A535#32, 0x9E6495A3#32,
   0x0EDB8832#32, 0x79DCB8A4#32, 0xE0D5E91E#32, 0x97D2D988#32, 0x09B64C2B#32, 0x7EB17CBD#32, 0xE7B82D07#32, 0x90BF1D91#32] ++
  [0x1DB71064#32, 0x6AB020F2#32, 0xF3B97148#32, 0x84BE41DE#32, 0x1ADAD47D#32, 0x6DDDE4EB#32, 0xF4D4B551#32, 0x83D385C7#32,
   0x136C9856#32, 0x646BA8C0#32, 0xFD62F97A#32, 0x8A65C9EC#32, 0x14015C4F#32, 0x63066CD9#32, 0xFA0F3D63#32, 0x8D080DF5#32] ++
  [0x3B6E20C8#32, 0x4C69105E#32, 0xD56041E4#32, 0xA2677172#32, 0x3C03E4D1#32, 0x4B04D447#32, 0xD20D85FD#32, 0xA50AB56B#32,
   0x35B5A8FA#32, 0x42B2986C#32, 0xDBBBC9D6#32, 0xACBCF940#32, 0x32D86CE3#32, 0x45DF5C75#32, 0xDCD60DCF#32, 0xABD13D59#32] ++
  [0x26D930AC#32, 0x51DE003A#32, 0xC8D75180#32, 0xBFD06116#32, 0x21B4F4B5#32, 0x56B3C423#32, 0xCFBA9599#32, 0xB8BDA50F#32,
   0x2802B89E#32, 0x5F058808#32, 0xC60CD9B2#32, 0xB10BE924#32, 0x2F6F7C87#32, 0x58684C11#32, 0xC1611DAB#32, 0xB6662D3D#32] ++
  [0x76DC4190#32, 0x01DB7106#32, 0x98D220BC#32, 0xEFD5102A#32, 0x71B18589#32, 0x06B6B51F#32, 0x9FBFE4A5#32, 0xE8B8D433#32,
   0x7807C9A2#32, 0x0F00F934#32, 0x9609A88E#32, 0xE10E9818#32, 0x7F6A0DBB#32, 0x086D3D2D#32, 0x91646C97#32, 0xE6635C01#32] ++
  [0x6B6B51F4#32, 0x1C6C6162#32, 0x856530D8#32, 0xF262004E#32, 0x6C0695ED#32, 0x1B01A57B#32, 0x8208F4C1#32, 0xF50FC457#32,
   0x65B0D9C6#32, 0x12B7E950#32, 0x8BBEB8EA#32, 0xFCB9887C#32, 0x62DD1DDF#32, 0x15DA2D49#32, 0x8CD37CF3#32, 0xFBD44C65#32] ++
  [0x4DB26158#32, 0x3AB551CE#32, 0xA3BC0074#32, 0xD4BB30E2#32, 0x4ADFA541#32, 0x3DD895D7#32, 0xA4D1C46D#32, 0xD3D6F4FB#32,
   0x4369E96A#32, 0x346ED9FC#32, 0xAD678846#32, 0xDA60B8D0#32, 0x44042D73#32, 0x33031DE5#32, 0xAA0A4C5F#32, 0xDD0D7CC9#32] ++
  [0x5005713C#32, 0x270241AA#32, 0xBE0B1010#32, 0xC90C2086#32, 0x5768B525#32, 0x206F85B3#32, 0xB966D409#32, 0xCE61E49F#32,
   0x5EDEF90E#32, 0x29D9C998#32, 0xB0D09822#32, 0xC7D7A8B4#32, 0x59B33D17#32, 0x2EB40D81#32, 0xB7BD5C3B#32, 0xC0BA6CAD#32] ++
  [0xEDB88320#32, 0x9ABFB3B6#32, 0x03B6E20C#32, 0x74B1D29A#32, 0xEAD54739#32, 0x9DD277AF#32, 0x04DB2615#32, 0x73DC1683#32,
   0xE3630B12#32, 0x94643B84#32, 0x0D6D6A3E#32, 0x7A6A5AA8#32, 0xE40ECF0B#32, 0x9309FF9D#32, 0x0A00AE27#32, 0x7D079EB1#32] ++
  [0xF00F9344#32, 0x8708A3D2#32, 0x1E01F268#32, 0x6906C2FE#32, 0xF762575D#32, 0x806567CB#32, 0x196C3671#32, 0x6E6B06E7#32,
   0xFED41B76#32, 0x89D32BE0#32, 0x10DA7A5A#32, 0x67DD4ACC#32, 0xF9B9DF6F#32, 0x8EBEEFF9#32, 0x17B7BE43#32, 0x60B08ED5#32] ++
  [0xD6D6A3E8#32, 0xA1D1937E#32, 0x38D8C2C4#32, 0x4FDFF252#32, 0xD1BB67F1#32, 0xA6BC5767#32, 0x3FB506DD#32, 0x48B2364B#32,
   0xD80D2BDA#32, 0xAF0A1B4C#32, 0x36034AF6#32, 0x41047A60#32, 0xDF60EFC3#32, 0xA867DF55#32, 0x316E8EEF#32, 0x4669BE79#32] ++
  [0xCB61B38C#32, 0xBC66831A#32, 0x256FD2A0#32, 0x5268E236#32, 0xCC0C7795#32, 0xBB0B4703#32, 0x220216B9#32, 0x5505262F#32,
   0xC5BA3BBE#32, 0xB2BD0B28#32, 0x2BB45A92#32, 0x5CB36A04#32, 0xC2D7FFA7#32, 0xB5D0CF31#32, 0x2CD99E8B#32, 0x5BDEAE1D#32] ++
  [0x9B64C2B0#32, 0xEC63F226#32, 0x756AA39C#32, 0x026D930A#32, 0x9C0906A9#32, 0xEB0E363F#32, 0x72076785#32, 0x05005713#32,
   0x95BF4A82#32, 0xE2B87A14#32, 0x7BB12BAE#32, 0x0CB61B38#32, 0x92D28E9B#32, 0xE5D5BE0D#32, 0x7CDCEFB7#32, 0x0BDBDF21#32] ++
  [0x86D3D2D4#32, 0xF1D4E242#32, 0x68DDB3F8#32, 0x1FDA836E#32, 0x81BE16CD#32, 0xF6B9265B#32, 0x6FB077E1#32, 0x18B74777#32,
   0x88085AE6#32, 0xFF0F6A70#32, 0x66063BCA#32, 0x11010B5C#32, 0x8F659EFF#32, 0xF862AE69#32, 0x616BFFD3#32, 0x166CCF45#32] ++
  [0xA00AE278#32, 0xD70DD2EE#32, 0x4E048354#32, 0x3903B3C2#32, 0xA7672661#32, 0xD06016F7#32, 0x4969474D#32, 0x3E6E77DB#32,
   0xAED16A4A#32, 0xD9D65ADC#32, 0x40DF0B66#32, 0x37D83BF0#32, 0xA9BCAE53#32, 0xDEBB9EC5#32, 0x47B2CF7F#32, 0x30B5FFE9#32] ++
  [0xBDBDF21C#32, 0xCABAC28A#32, 0x53B39330#32, 0x24B4A3A6#32, 0xBAD03605#32, 0xCDD70693#32, 0x54DE5729#32, 0x23D967BF#32,
   0xB3667A2E#32, 0xC4614AB8#32, 0x5D681B02#32, 0x2A6F2B94#32, 0xB40BBE37#32, 0xC30C8EA1#32, 0x5A05DF1B#32, 0x2D02EF8D#32]

/-- "123456789" in NEWBUF, padded, after hardware reset (42_window.md R162's example). -/
def nineDigits : State :=
  { State.reset with
    mem := [(0x800, 0x31#8), (0x801, 0x32#8), (0x802, 0x33#8), (0x803, 0x34#8), (0x804, 0x35#8),
      (0x805, 0x36#8), (0x806, 0x37#8), (0x807, 0x38#8), (0x808, 0x39#8), (0x809, 0x00#8),
      (0x80A, 0x00#8), (0x80B, 0x00#8)] }

end Sys2Proof.Claims

open Sys2Proof.Claims

/-! ### Encoding and the step -/

/-- R80, R83: the decoder gives back every well-formed command that is encoded, with every NOLD and
NNEW of 0 to 2047. -/
def Obligations.DecodeOfEncodeIsTheCommand : Prop :=
  ∀ i : Instr, i.wellFormed = true → decode (encode i) = .ok i

/-- R83: each legal word is the encoding of the one command it decodes to, which is well formed. -/
def Obligations.EncodeOfDecodeIsTheWord : Prop :=
  ∀ (w : Word) (i : Instr), decode w = .ok i → encode i = w ∧ i.wellFormed = true

/-- R83: which words are legal, the one legal word of each command but WUPDATE, WUPDATE's words, and
ILLEGAL_COMMAND for every other word. -/
def Obligations.LegalCommandWords : Prop :=
  (∀ w : Word, (∃ i, decode w = .ok i) ↔
    (w.extractLsb' 0 8 ∈ [0x00#8, 0x01#8, 0x10#8, 0x11#8, 0x12#8, 0x20#8, 0x21#8] ∧
      w.extractLsb' 30 2 = 0#2 ∧ (w.extractLsb' 0 8 = 0x21#8 ∨ w.extractLsb' 8 22 = 0#22))) ∧
  (∀ w, decode w = .ok .nop ↔ w = 0x00000000#32) ∧
  (∀ w, decode w = .ok .clrerr ↔ w = 0x00000001#32) ∧
  (∀ w, decode w = .ok .bstep ↔ w = 0x00000010#32) ∧
  (∀ w, decode w = .ok .mul8 ↔ w = 0x00000011#32) ∧
  (∀ w, decode w = .ok .mul32 ↔ w = 0x00000012#32) ∧
  (∀ w, decode w = .ok .wreset ↔ w = 0x00000020#32) ∧
  (∀ w m n, decode w = .ok (.wupdate m n) ↔ (m < 2048 ∧ n < 2048 ∧ w = updateWord m n)) ∧
  (∀ w, (∃ m n, decode w = .ok (.wupdate m n)) ↔ w &&& 0xC00000FF#32 = 0x00000021#32) ∧
  (∀ w s q r, (¬∃ i, decode w = .ok i) → s.pend = none →
    step (hostTurn q r (cmdWrite w) s)
      = .next (answered q r (.write .ok) (recorded .illegalCommand 3#4 w s)))

/-- R82, R83: words written out from the opcode map decode to their commands, and three illegal words
of 95_test_vectors.md L2.7 do not decode. -/
def Obligations.SpecCommandWordsDecode : Prop :=
  decode 0x00000000#32 = .ok .nop ∧ decode 0x00000001#32 = .ok .clrerr ∧
  decode 0x00000010#32 = .ok .bstep ∧ decode 0x00000011#32 = .ok .mul8 ∧
  decode 0x00000012#32 = .ok .mul32 ∧ decode 0x00000020#32 = .ok .wreset ∧
  decode 0x00000021#32 = .ok (.wupdate 0 0) ∧ decode 0x00480021#32 = .ok (.wupdate 0 9) ∧
  decode 0x00180121#32 = .ok (.wupdate 1 3) ∧ decode 0x3FFFFF21#32 = .ok (.wupdate 2047 2047) ∧
  decode 0x00000002#32 = .error .unassignedOpcode ∧ decode 0x00000101#32 = .error .strayFields ∧
  decode 0x40000021#32 = .error .reservedBits

/-- R37: when the engine moves with a command in flight, the step clears PEND and does what exec says
of the command that the word decodes to, whether the schedule names the engine or has run out. The
model's own places (log 1, log 7) are part of the statement. -/
def Obligations.StepCompletesTheCommandInFlight : Prop :=
  (∀ (s : State) (w : Word) i q, decode w = .ok i →
    step { s with pend := some w, sched := .engine :: q } = exec i { s with pend := none, sched := q }) ∧
  (∀ (s : State) (w : Word) i, decode w = .ok i →
    step { s with pend := some w, sched := [] } = exec i { s with pend := none, sched := [] }) ∧
  (∀ (s : State) (w : Word) i, decode w = .ok i →
    step (s.withFetchWord 32 w.toNat) = exec i { s with pend := none })

/-! ### Errors -/

/-- R201's codes and the record of R204 and R206, for each of the seven errors: ERR becomes 1, ERRCODE
and ERRINFO are captured only if ERR was 0, the model's fault is recorded, and nothing else changes. -/
def Obligations.ErrorCodesAndRecording : Prop :=
  ∀ (info : Word) (s : State),
    raiseError .windowUnderflow info s = recorded .windowUnderflow 1#4 info s ∧
    raiseError .shrinkNotSupported info s = recorded .shrinkNotSupported 2#4 info s ∧
    raiseError .illegalCommand info s = recorded .illegalCommand 3#4 info s ∧
    raiseError .countRange info s = recorded .countRange 4#4 info s ∧
    raiseError .lengthOverflow info s = recorded .lengthOverflow 5#4 info s ∧
    raiseError .busyViolation info s = recorded .busyViolation 6#4 info s ∧
    raiseError .badAccess info s = recorded .badAccess 7#4 info s

/-- R84 and R161: what a CMD write that finds BUSY = 0 does, whatever ERR is: an illegal word and each
failed check records its error and changes nothing else, the first failing check in R84's order names
it, and every other legal word goes to PEND. -/
def Obligations.CommandAcceptance : Prop :=
  (∀ s q r w, (¬∃ i, decode w = .ok i) → s.pend = none →
    step (hostTurn q r (cmdWrite w) s)
      = .next (answered q r (.write .ok) (recorded .illegalCommand 3#4 w s))) ∧
  (∀ s q r w, w ∈ [0x00000000#32, 0x00000001#32, 0x00000010#32, 0x00000011#32, 0x00000012#32, 0x00000020#32] →
    s.pend = none →
    step (hostTurn q r (cmdWrite w) s) = .next (answered q r (.write .ok) { s with pend := some w })) ∧
  (∀ s q r m n, m < 2048 → n < 2048 → s.pend = none →
    ((s.cfg.bufDepth < m ∨ s.cfg.bufDepth < n) →
      step (hostTurn q r (cmdWrite (updateWord m n)) s)
        = .next (answered q r (.write .ok) (recorded .countRange 4#4 (updateWord m n) s))) ∧
    (m ≤ s.cfg.bufDepth → n ≤ s.cfg.bufDepth → s.length.toNat < m →
      step (hostTurn q r (cmdWrite (updateWord m n)) s)
        = .next (answered q r (.write .ok) (recorded .windowUnderflow 1#4 (updateWord m n) s))) ∧
    (m ≤ s.cfg.bufDepth → n ≤ s.cfg.bufDepth → m ≤ s.length.toNat → n < m →
      step (hostTurn q r (cmdWrite (updateWord m n)) s)
        = .next (answered q r (.write .ok) (recorded .shrinkNotSupported 2#4 (updateWord m n) s))) ∧
    (m ≤ s.cfg.bufDepth → n ≤ s.cfg.bufDepth → m ≤ s.length.toNat → m ≤ n →
      2 ^ 64 - 1 < s.length.toNat + (n - m) →
      step (hostTurn q r (cmdWrite (updateWord m n)) s)
        = .next (answered q r (.write .ok) (recorded .lengthOverflow 5#4 (updateWord m n) s))) ∧
    (updateReady m n s →
      step (hostTurn q r (cmdWrite (updateWord m n)) s)
        = .next (answered q r (.write .ok) { s with pend := some (updateWord m n) })))

/-- R205: while ERR is 1, no step but CLRERR's completion or a hardware reset changes ERR, ERRCODE or
ERRINFO, and those two clear all three. -/
def Obligations.FirstErrorIsKept : Prop :=
  ∀ s t : State, s.err = true → step s = .next t →
    (completing s ≠ some .clrerr → nextAgent s ≠ .reset →
      t.err = true ∧ t.errcode = s.errcode ∧ t.errinfo = s.errinfo) ∧
    (completing s = some .clrerr ∨ nextAgent s = .reset →
      t.err = false ∧ t.errcode = 0#4 ∧ t.errinfo = 0#32)

/-- R206 with log 4: no step clears the model's record of faults, and a step that sets ERR records an
error there. -/
def Obligations.FaultRecordIsNeverCleared : Prop :=
  ∀ s t : State, step s = .next t →
    (∃ more, t.faults = s.faults ++ more) ∧
    (s.err = false → t.err = true → ∃ e, Fault.error e t.errinfo ∈ t.faults)

/-- R200: in every state that meets the invariant, the engine's completion step raises no error: ERR,
ERRCODE and ERRINFO change only for CLRERR, and whatever fault it records is a use of an unwritten
byte. -/
def Obligations.CompletionRaisesNoError : Prop :=
  ∀ s t : State, MachineInv s → nextAgent s = .engine → step s = .next t →
    (completing s ≠ some .clrerr → t.err = s.err ∧ t.errcode = s.errcode ∧ t.errinfo = s.errinfo) ∧
    ∀ f ∈ t.faults, f ∈ s.faults ∨ ∃ a, f = .unwrittenByte a

/-! ### The bus -/

/-- R54: an access that is not four bytes at a multiple of four is BAD_ACCESS with ERRINFO =
zext_32(addr), answers ERR (0 for a read), and does nothing else, in every state. -/
def Obligations.NarrowOrMisalignedIsBadAccess : Prop :=
  ∀ (s : State) (addr : Offset) (size : AccessSize), (size ≠ .four ∨ addr.toNat % 4 ≠ 0) →
    readIsBad addr size s ∧ writeIsBad addr size s

/-- R53: the whole address map, row by row: what an aligned 32-bit read answers (at any time) and what
an aligned 32-bit write does (the writes that take effect, while BUSY = 0). -/
def Obligations.AddressMap : Prop :=
  ∀ s : State,
    (readAnswers 0x000#12 0#32 s ∧ readAnswers 0x004#12 (statusValue s) s ∧
      readAnswers 0x008#12 s.opa s ∧ readAnswers 0x00C#12 s.opb s ∧ readAnswers 0x010#12 s.result s ∧
      readAnswers 0x014#12 (s.core ^^^ s.zc) s ∧ readAnswers 0x018#12 s.core s ∧
      readAnswers 0x01C#12 s.zc s ∧ readAnswers 0x020#12 s.oc s ∧
      readAnswers 0x024#12 (s.length.setWidth 32) s ∧ readAnswers 0x028#12 ((s.length >>> 32).setWidth 32) s ∧
      readAnswers 0x02C#12 s.cfg.polyRev s ∧ readAnswers 0x030#12 s.errinfo s) ∧
    (∀ addr, addr.toNat % 4 = 0 → isReserved s.cfg addr → readIsBad addr .four s ∧ writeIsBad addr .four s) ∧
    (∀ addr ∈ readOnlyOffsets, writeIsBad addr .four s) ∧
    (∀ addr q r, isBufferWord s.cfg addr → ∃ t,
      step (hostTurn q r (.read addr .four) s) = .next (answered q r (.read (s.wordAt addr.toNat) .ok) t) ∧
        t = { s with faults := t.faults }) ∧
    (s.pend = none → ∀ q r w,
      step (hostTurn q r (.write 0x000#12 .four w) s) = .next (answered q r (.write .ok) (issueCommand w s)) ∧
      step (hostTurn q r (.write 0x008#12 .four w) s) = .next (answered q r (.write .ok) { s with opa := w }) ∧
      step (hostTurn q r (.write 0x00C#12 .four w) s) = .next (answered q r (.write .ok) { s with opb := w }) ∧
      ∀ addr, isBufferWord s.cfg addr →
        step (hostTurn q r (.write addr .four w) s)
          = .next (answered q r (.write .ok) { s with mem := s.mem.writeWord addr.toNat w }))

/-- R59: a buffer word is little-endian: a host write puts bits 8j+7 to 8j of wdata at offset a+j, sets
those four written bits and no other byte changes, and a read answers
byte[a+3] ++ byte[a+2] ++ byte[a+1] ++ byte[a]. -/
def Obligations.BufferWordsAreLittleEndian : Prop :=
  (∀ s q r addr w, isBufferWord s.cfg addr → s.pend = none → ∃ t,
    step (hostTurn q r (.write addr .four w) s) = .next (answered q r (.write .ok) t) ∧
      t = { s with mem := t.mem } ∧
      (∀ j < 4, t.mem.read (addr.toNat + j) = some (w.extractLsb' (8 * j) 8)) ∧
      (∀ a, (a < addr.toNat ∨ addr.toNat + 3 < a) → t.mem.read a = s.mem.read a ∧ t.byteAt a = s.byteAt a) ∧
      readAnswers addr w t) ∧
  (∀ s q r addr, isBufferWord s.cfg addr → ∃ t,
    step (hostTurn q r (.read addr .four) s)
      = .next (answered q r
          (.read (s.byteAt (addr.toNat + 3) ++ s.byteAt (addr.toNat + 2) ++ s.byteAt (addr.toNat + 1)
            ++ s.byteAt addr.toNat) .ok) t) ∧
      t = { s with faults := t.faults })

/-- R34 with log 4 and log 5: reading a buffer word with an unwritten byte, and a WUPDATE that uses one,
record a fault for that byte and go on; when every byte used is written no fault is recorded. -/
def Obligations.UnwrittenBytesAreRecordedFaults : Prop :=
  (∀ s q r addr, isBufferWord s.cfg addr → ∃ t, step (hostTurn q r (.read addr .four) s) = .next t ∧
    (∀ j < 4, s.mem.read (addr.toNat + j) = none → Fault.unwrittenByte (addr.toNat + j) ∈ t.faults) ∧
    ((∀ j < 4, s.mem.read (addr.toNat + j) ≠ none) → t.faults = s.faults)) ∧
  (∀ s m n, updateReady m n s → ∃ t, exec (.wupdate m n) s = .next t ∧
    (∀ i < m, s.mem.read (0x400 + i) = none → Fault.unwrittenByte (0x400 + i) ∈ t.faults) ∧
    (∀ i < n, s.mem.read (0x800 + i) = none → Fault.unwrittenByte (0x800 + i) ∈ t.faults) ∧
    (allWritten m n s → t.faults = s.faults))

/-- R57: while BUSY = 1 a write to CMD, OPA, OPB or a buffer word is dropped with BUSY_VIOLATION and
ERRINFO = zext_32(addr); so no step of the host changes the command in flight or anything it reads. -/
def Obligations.BusyInterlock : Prop :=
  (∀ s q r addr w, s.pend ≠ none →
    (addr = 0x000#12 ∨ addr = 0x008#12 ∨ addr = 0x00C#12 ∨ isBufferWord s.cfg addr) →
    step (hostTurn q r (.write addr .four w) s)
      = .next (answered q r (.write .err) (recorded .busyViolation 6#4 (addr.setWidth 32) s))) ∧
  (∀ s t, s.pend ≠ none → nextAgent s = .host → step s = .next t →
    t.pend = s.pend ∧ t.opa = s.opa ∧ t.opb = s.opb ∧ t.mem = s.mem ∧ t.length = s.length ∧
      t.core = s.core ∧ t.zc = s.zc ∧ t.oc = s.oc ∧ t.xpc = s.xpc ∧ t.xpcN = s.xpcN ∧
      t.result = s.result ∧ t.cfg = s.cfg ∧ ∀ a, t.byteAt a = s.byteAt a)

/-- R240, with the interleavings of log 1: a write to OPA issued while a command may be in flight is dropped with BUSY_VIOLATION if the
host moves first, and performed if the completion comes first. -/
def Obligations.WriteRacingACompletion : Prop :=
  ∀ (s : State) (v : Word), s.pend ≠ none →
    step { s with sched := [.host], host := [.tx (.write 0x008#12 .four v)] }
      = .next (answered [] [] (.write .err) (recorded .busyViolation 6#4 0x008#32 s)) ∧
    ∃ t, Sys2Proof.core.run 2 { s with sched := [.engine, .host], host := [.tx (.write 0x008#12 .four v)] }
      = .next t ∧ t.opa = v ∧ t.answer = some (.write .ok) ∧ t.pend = none

/-- R63: a read that answers OK changes nothing but the answer (and, in the model, the fault record of
unwritten bytes) and answers the same again; one that answers ERR records the error; repeating a write
to OPA, OPB or a buffer word changes nothing more; a second CMD write after an accepted one does not
issue a second command. -/
def Obligations.AccessSideEffects : Prop :=
  (∀ s addr size v, (access (.read addr size) s).answer = some (.read v .ok) →
    access (.read addr size) s
      = { s with answer := some (.read v .ok), faults := (access (.read addr size) s).faults } ∧
    (access (.read addr size) (access (.read addr size) s)).answer = some (.read v .ok)) ∧
  (∀ s addr size v, (access (.read addr size) s).answer = some (.read v .err) →
    v = 0#32 ∧ access (.read addr size) s
      = { recorded .badAccess 7#4 (addr.setWidth 32) s with answer := some (.read 0#32 .err) }) ∧
  (∀ s addr w, addr ≠ 0x000#12 → (access (.write addr .four w) s).answer = some (.write .ok) →
    access (.write addr .four w) (access (.write addr .four w) s) = access (.write addr .four w) s) ∧
  (∀ s w v, s.pend = none → (access (cmdWrite w) s).pend = some w →
    (access (cmdWrite v) (access (cmdWrite w) s)).pend = some w ∧
      (access (cmdWrite v) (access (cmdWrite w) s)).answer = some (.write .err))

/-- R29 and R175: a read of SUM answers CORE ^ ZC of the one state it is made in, whether or not a
command is in flight, and does nothing else; from hardware reset it is 0, the CRC of no byte; for a
window of zero bytes it is ZC. -/
def Obligations.SumRead : Prop :=
  (∀ s, readAnswers 0x014#12 (s.core ^^^ s.zc) s) ∧
  (∀ cfg, readAnswers 0x014#12 0#32 (State.resetOf cfg) ∧ crc32std cfg.polyRev [] = 0#32) ∧
  (∀ s, Holds (List.replicate s.length.toNat 0#8) s → readAnswers 0x014#12 s.zc s)

/-- R202: in every state that meets the invariant, STATUS reports ERRCODE 0 while ERR is 0, and a code
of 1 to 7 while ERR is 1. -/
def Obligations.ErrcodeIsZeroOrOneToSeven : Prop :=
  ∀ s : State, MachineInv s → ∃ v : Word, readAnswers 0x004#12 v s ∧
    (v.getLsbD 1 = false → v.extractLsb' 4 4 = 0#4) ∧
    (v.getLsbD 1 = true → 1 ≤ (v.extractLsb' 4 4).toNat ∧ (v.extractLsb' 4 4).toNat ≤ 7)

/-! ### The byte step -/

/-- R100: TABLE[i] is c_8 of the bitwise construction, TABLE[0] = 0, TABLE[0x80] = POLY_REV, and the
default table is the one printed. -/
def Obligations.TableConstruction : Prop :=
  (∀ (p : Word) (i : Byte), ∃ c : Nat → Word, c 0 = i.setWidth 32 ∧
    (∀ t < 8, c (t + 1) = if (c t).getLsbD 0 = true then (c t >>> 1) ^^^ p else c t >>> 1) ∧
    tableEntry p i = c 8) ∧
  (∀ p : Word, tableEntry p 0x00#8 = 0#32 ∧ tableEntry p 0x80#8 = p) ∧
  table 0xEDB88320#32 = printedTable

/-- R102: the polynomial meaning of TABLE and Step, for every POLY_REV. -/
def Obligations.StepPolynomialMeaning : Prop :=
  ∀ (p acc : Word) (b : Byte),
    rho32 (tableEntry p b) = (rho8 b * X ^ 32) %ₘ generator p ∧
    rho32 (tableEntry p b) = (rho32 (b.setWidth 32) * X ^ 8) %ₘ generator p ∧
    rho32 (crcStep p acc b) = ((rho32 acc + rho8 b * X ^ 24) * X ^ 8) %ₘ generator p ∧
    rho32 (crcStep p acc 0#8) = (rho32 acc * X ^ 8) %ₘ generator p

/-- R103: TABLE and Step are linear over XOR, Step(0, 0) = 0, and folding Step from 0 and from ONES
gives the two checksums of R13. -/
def Obligations.StepIsLinear : Prop :=
  (∀ (p : Word) (i j : Byte), tableEntry p (i ^^^ j) = tableEntry p i ^^^ tableEntry p j) ∧
  (∀ (p a a' : Word) (b b' : Byte), crcStep p (a ^^^ a') (b ^^^ b') = crcStep p a b ^^^ crcStep p a' b') ∧
  (∀ p : Word, crcStep p 0#32 0#8 = 0#32) ∧
  (∀ (p : Word) (bytes : List Byte), bytes.foldl (crcStep p) 0#32 = unmasked p bytes ∧
    ~~~(bytes.foldl (crcStep p) 0xFFFFFFFF#32) = crc32std p bytes)

/-- R13: the recurrences of CRC32std and Unmasked, byte by byte, and Unmasked(B) as
(M_B · x^32) mod G, the first byte carrying the highest powers. -/
def Obligations.ChecksumDefinitions : Prop :=
  (∀ p : Word, crc32std p [] = 0xFFFFFFFF#32 ^^^ 0xFFFFFFFF#32 ∧ unmasked p [] = 0#32) ∧
  (∀ (p : Word) (bytes : List Byte) (b : Byte),
    crc32std p (bytes ++ [b]) ^^^ 0xFFFFFFFF#32 = crcStep p (crc32std p bytes ^^^ 0xFFFFFFFF#32) b ∧
    unmasked p (bytes ++ [b]) = crcStep p (unmasked p bytes) b) ∧
  (∀ (p : Word) (bytes : List Byte),
    rho32 (unmasked p bytes) = (messagePoly bytes * X ^ 32) %ₘ generator p)

/-- R104: BSTEP completes in every state with RESULT = Step(OPA, OPB[7:0]) and nothing else changed; its
word, its corner cases and its example. -/
def Obligations.BstepCommand : Prop :=
  decode 0x00000010#32 = .ok .bstep ∧
  (∀ s : State, exec .bstep s
    = .next { s with
        result := tableEntry s.cfg.polyRev (s.opa.extractLsb' 0 8 ^^^ s.opb.extractLsb' 0 8) ^^^ (s.opa >>> 8) }) ∧
  (∀ s : State, s.opa = 0#32 → s.opb.extractLsb' 0 8 = 0#8 → exec .bstep s = .next { s with result := 0#32 }) ∧
  (∀ s : State, s.opa = 0#32 →
    exec .bstep s = .next { s with result := tableEntry s.cfg.polyRev (s.opb.extractLsb' 0 8) }) ∧
  (∀ s : State, s.opb.extractLsb' 0 8 = s.opa.extractLsb' 0 8 →
    exec .bstep s = .next { s with result := s.opa >>> 8 }) ∧
  (∀ s : State, s.cfg.polyRev = 0xEDB88320#32 → s.opa = 0xFFFFFFFF#32 → s.opb = 0#32 →
    exec .bstep s = .next { s with result := 0x2DFD1072#32 })

/-! ### The multipliers -/

/-- R123: Mul8 is multiplication modulo G, and it is Mul32 by the byte in the high place. -/
def Obligations.Mul8IsReducedMultiplication : Prop :=
  ∀ (p crc : Word) (v : Byte),
    rho32 (mul8 p crc v) = (rho32 crc * rho8 v) %ₘ generator p ∧
    mul8 p crc v = mul32 p crc (v.setWidth 32 <<< 24)

/-- R124: Mul32 is multiplication modulo G. -/
def Obligations.Mul32IsReducedMultiplication : Prop :=
  ∀ p a b : Word, rho32 (mul32 p a b) = (rho32 a * rho32 b) %ₘ generator p

/-- R125: XPow(n) is x^(8n) mod G, powers add, XPow(1) = x^8 and XPow(4) = POLY_REV. -/
def Obligations.XPowIsThePowerOfX : Prop :=
  ∀ (p : Word) (m n : Nat),
    rho32 (xpow p n) = X ^ (8 * n) %ₘ generator p ∧
    mul32 p (xpow p m) (xpow p n) = xpow p (m + n) ∧
    xpow p 1 = 0x00800000#32 ∧ xpow p 4 = p

/-- R126: the algebraic laws of the multipliers, for every POLY_REV, and that neither command raises
anything. -/
def Obligations.MultiplierAlgebra : Prop :=
  (∀ (p a : Word) (v : Byte), mul8 p a 0#8 = 0#32 ∧ mul8 p 0#32 v = 0#32 ∧
    mul32 p a 0#32 = 0#32 ∧ mul32 p 0#32 a = 0#32) ∧
  (∀ p a : Word, mul32 p a 0x80000000#32 = a ∧ mul32 p 0x80000000#32 a = a ∧ mul8 p a 0x80#8 = a) ∧
  (∀ p a b : Word, mul32 p a b = mul32 p b a) ∧
  (∀ p a b c : Word, mul32 p (mul32 p a b) c = mul32 p a (mul32 p b c)) ∧
  (∀ (p a b c : Word) (v : Byte), mul32 p (a ^^^ c) b = mul32 p a b ^^^ mul32 p c b ∧
    mul8 p (a ^^^ c) v = mul8 p a v ^^^ mul8 p c v) ∧
  (∀ p a : Word, mul32 p a 0x00800000#32 = crcStep p a 0#8) ∧
  (∀ (s : State), ∃ t u, exec .mul8 s = .next t ∧ t.err = s.err ∧ t.faults = s.faults ∧
    exec .mul32 s = .next u ∧ u.err = s.err ∧ u.faults = s.faults)

/-- R127: the constant-wiring law in the form that holds, in the default configuration, and that the
form the source prints does not. -/
def Obligations.ConstantWiring : Prop :=
  mul8 0xEDB88320#32 0xFFFFFFFF#32 0x08#8 = 0xB2420DE3#32 ∧
  mul8 0xEDB88320#32 0xB2420DE3#32 0x08#8 = 0x2DFD1072#32 ∧
  ~~~(mul8 0xEDB88320#32 (mul8 0xEDB88320#32 0xFFFFFFFF#32 0x08#8) 0x08#8) = crc32std 0xEDB88320#32 [0x00#8] ∧
  crc32std 0xEDB88320#32 [0x00#8] = 0xD202EF8D#32 ∧
  mul8 0xEDB88320#32 (mul8 0xEDB88320#32 0#32 0x08#8) 0x08#8 = 0#32

/-- R130: MUL8 completes in every state with RESULT = Mul8(OPA, OPB[7:0]) and nothing else changed; its
word, its corner cases and its example. -/
def Obligations.Mul8Command : Prop :=
  decode 0x00000011#32 = .ok .mul8 ∧
  (∀ s : State, exec .mul8 s = .next { s with result := mul8 s.cfg.polyRev s.opa (s.opb.extractLsb' 0 8) }) ∧
  (∀ s : State, (s.opb.extractLsb' 0 8 = 0#8 ∨ s.opa = 0#32) → exec .mul8 s = .next { s with result := 0#32 }) ∧
  (∀ s : State, s.opb.extractLsb' 0 8 = 0x80#8 → exec .mul8 s = .next { s with result := s.opa }) ∧
  (∀ s : State, s.opa = 0x80000000#32 →
    exec .mul8 s = .next { s with result := (s.opb.extractLsb' 0 8).setWidth 32 <<< 24 }) ∧
  (∀ s : State, s.opa = 0x00000080#32 → s.opb.extractLsb' 0 8 = 0x01#8 →
    exec .mul8 s = .next { s with result := 0x00000001#32 }) ∧
  (∀ s : State, s.cfg.polyRev = 0xEDB88320#32 → s.opa = 0x00000001#32 → s.opb = 0x01#32 →
    exec .mul8 s = .next { s with result := 0xEE0E612C#32 })

/-- R131: MUL32 completes in every state with RESULT = Mul32(OPA, OPB) and nothing else changed; its
word, its corner cases and its example, the same with the operands swapped. -/
def Obligations.Mul32Command : Prop :=
  decode 0x00000012#32 = .ok .mul32 ∧
  (∀ s : State, exec .mul32 s = .next { s with result := mul32 s.cfg.polyRev s.opa s.opb }) ∧
  (∀ s : State, (s.opa = 0#32 ∨ s.opb = 0#32) → exec .mul32 s = .next { s with result := 0#32 }) ∧
  (∀ s : State, s.opb = 0x80000000#32 → exec .mul32 s = .next { s with result := s.opa }) ∧
  (∀ s : State, s.opa = 0x80000000#32 → exec .mul32 s = .next { s with result := s.opb }) ∧
  (∀ s : State, s.opa = 0x00000001#32 → s.opb = 0x40000000#32 →
    exec .mul32 s = .next { s with result := s.cfg.polyRev }) ∧
  (∀ s : State, s.cfg.polyRev = 0xEDB88320#32 → s.opa = 0x00000001#32 → s.opb = 0x00000001#32 →
    exec .mul32 s = .next { s with result := 0xAA09C88B#32 }) ∧
  (∀ s : State, s.cfg.polyRev = 0xEDB88320#32 →
    ((s.opa = 0xDEADBEEF#32 ∧ s.opb = 0x12345678#32) ∨ (s.opa = 0x12345678#32 ∧ s.opb = 0xDEADBEEF#32)) →
    exec .mul32 s = .next { s with result := 0xD6048CA5#32 })

/-! ### The control commands -/

/-- R190: NOP completes in every state and changes nothing; its word is 0. Around it BUSY goes to 1 and
back. -/
def Obligations.NopCommand : Prop :=
  decode 0x00000000#32 = .ok .nop ∧
  (∀ s : State, exec .nop s = .next s) ∧
  (∀ s q r, s.pend = none →
    step (hostTurn q r (cmdWrite 0#32) s) = .next (answered q r (.write .ok) { s with pend := some 0#32 })) ∧
  (∀ (s : State) q, step { s with pend := some 0#32, sched := .engine :: q } = .next { s with pend := none, sched := q })

/-- R191: CLRERR completes in every state, whatever ERR is, clears ERR, ERRCODE and ERRINFO and changes
nothing else; the model's fault record stays. Its example: STATUS 0x12 becomes 0. -/
def Obligations.ClrerrCommand : Prop :=
  decode 0x00000001#32 = .ok .clrerr ∧
  (∀ s : State, exec .clrerr s = .next { s with err := false, errcode := 0#4, errinfo := 0#32 }) ∧
  (∀ s : State, MachineInv s → s.err = false → exec .clrerr s = .next s) ∧
  (∀ s : State, s.pend = none → ∃ t, exec .clrerr s = .next t ∧ readAnswers 0x004#12 0#32 t ∧
    readAnswers 0x030#12 0#32 t ∧ t.faults = s.faults)

/-! ### The window -/

/-- R150: WRESET completes in every state, empties the window and the cache and changes nothing else; on
an already empty window it changes nothing visible. -/
def Obligations.WresetCommand : Prop :=
  decode 0x00000020#32 = .ok .wreset ∧
  (∀ s : State, exec .wreset s
    = .next { s with length := 0#64, core := 0#32, zc := 0#32, oc := s.cfg.polyRev, xpc := 0x80000000#32, xpcN := 0 }) ∧
  (∀ s : State, MachineInv s → Holds [] s → exec .wreset s = .next { s with xpc := 0x80000000#32, xpcN := 0 }) ∧
  (∀ s : State, s.cfg.polyRev = 0xEDB88320#32 → ∃ t, exec .wreset s = .next t ∧ t.length = 0#64 ∧
    t.core = 0#32 ∧ t.zc = 0#32 ∧ readAnswers 0x014#12 0#32 t ∧ t.oc = 0xEDB88320#32)

/-- R232: hardware reset and WRESET leave the same window and cache; hardware reset also clears OPA, OPB,
RESULT, STATUS, ERRINFO and every written bit, and WRESET leaves those alone. -/
def Obligations.HardwareResetAgainstWreset : Prop :=
  ∀ (s : State) (q : List Agent), ∃ t u, exec .wreset s = .next t ∧
    step { s with sched := .reset :: q } = .next u ∧ sameWindow t u ∧ t.length = 0#64 ∧
    u.opa = 0#32 ∧ u.opb = 0#32 ∧ u.result = 0#32 ∧ u.err = false ∧ u.errcode = 0#4 ∧ u.pend = none ∧
    u.errinfo = 0#32 ∧ (∀ a, u.mem.read a = none) ∧
    t.opa = s.opa ∧ t.opb = s.opb ∧ t.result = s.result ∧ t.err = s.err ∧ t.errcode = s.errcode ∧
    t.errinfo = s.errinfo ∧ t.mem = s.mem ∧ t.pend = s.pend

/-- R151: after WRESET the window and the cache equal those of hardware reset, and what commands make of
the window depends on nothing but the window, the configuration and the buffer bytes used: one command,
and any list of commands that use no buffer byte or the same ones. -/
def Obligations.WindowDependsOnlyOnTheWindow : Prop :=
  (∀ s t, exec .wreset s = .next t → sameWindow t (hardwareReset s)) ∧
  (∀ i s t s' t', sameWindow s t → sameOperandBytes i s t → exec i s = .next s' → exec i t = .next t' →
    sameWindow s' t' ∧ sumView s' = sumView t') ∧
  (∀ (l : List Instr) s t s' t', sameWindow s t → (∀ i ∈ l, sameOperandBytes i s t) →
    execAll l s = .next s' → execAll l t = .next t' → sameWindow s' t' ∧ sumView s' = sumView t')

/-- R162: a WUPDATE whose preconditions hold completes, with the loops of the rule's pseudocode run over
the buffer bytes and the rescaling by XPow(k), and changes nothing else (buffers included); its word and
its example. The premise on XPC is the cache's invariant (R36). -/
def Obligations.WupdateCommand : Prop :=
  (∀ m n, m < 2048 → n < 2048 → decode (updateWord m n) = .ok (.wupdate m n)) ∧
  (∀ (s : State) (m n : Nat), updateReady m n s → s.xpc = xpow s.cfg.polyRev s.xpcN →
    ∃ t, exec (.wupdate m n) s = .next t ∧
      t.core = surplusCore s.cfg.polyRev (fun i => s.byteAt (0x800 + i)) m
        (pairedCore s.cfg.polyRev s.oc (fun i => s.byteAt (0x400 + i)) (fun i => s.byteAt (0x800 + i)) s.core m)
        (n - m) ∧
      (n = m → t.zc = s.zc ∧ t.oc = s.oc ∧ t.length = s.length ∧ t.xpc = s.xpc ∧ t.xpcN = s.xpcN) ∧
      (m < n →
        t.zc = ~~~(mul32 s.cfg.polyRev (~~~s.zc) (xpow s.cfg.polyRev (n - m))) ∧
        t.oc = mul32 s.cfg.polyRev (if s.length = 0#64 then 0x00000080#32 else s.oc) (xpow s.cfg.polyRev (n - m)) ∧
        t.length.toNat = s.length.toNat + (n - m) ∧
        t.xpc = xpow s.cfg.polyRev (n - m) ∧ t.xpcN = n - m) ∧
      t = { s with
        core := t.core, zc := t.zc, oc := t.oc, length := t.length, xpc := t.xpc, xpcN := t.xpcN
        faults := t.faults } ∧
      (∀ a, t.byteAt a = s.byteAt a) ∧ (allWritten m n s → t.faults = s.faults) ∧
      (¬allWritten m n s → t.faults ≠ s.faults)) ∧
  (∃ t, exec (.wupdate 0 9) nineDigits = .next t ∧ t.length = 9#64 ∧ t.core = 0x2DFD2D88#32 ∧
    t.zc = 0xE60914AE#32 ∧ t.oc = 0x6655004F#32 ∧ readAnswers 0x014#12 0xCBF43926#32 t)

/-- R166: the corner cases of WUPDATE: no bytes; equal counts; pure extension from an empty window; the
seed at length 0; the whole window replaced; failed preconditions (where they fail at completion the
model raises them there, log 6); all-zero bytes; and no error for any bytes. -/
def Obligations.WupdateCornerCases : Prop :=
  (∀ s : State, exec (.wupdate 0 0) s = .next s) ∧
  (∀ s q r, s.pend = none → s.length.toNat ≤ 2 ^ 64 - 1 →
    step (hostTurn q r (cmdWrite 0x00000021#32) s)
      = .next (answered q r (.write .ok) { s with pend := some 0x00000021#32 })) ∧
  (∀ s m, updateReady m m s → ∃ t, exec (.wupdate m m) s = .next t ∧
    t = { s with core := t.core, faults := t.faults }) ∧
  (∀ cfg mem n, n ≤ cfg.bufDepth → ∃ t, exec (.wupdate 0 n) { State.resetOf cfg with mem := mem } = .next t ∧
    sumView t = crc32std cfg.polyRev (newBytes { State.resetOf cfg with mem := mem } n)) ∧
  (∀ s n, updateReady 0 n s → 0 < n → s.length = 0#64 → s.xpc = xpow s.cfg.polyRev s.xpcN →
    ∃ t, exec (.wupdate 0 n) s = .next t ∧
      t.oc = mul32 s.cfg.polyRev 0x00000080#32 (xpow s.cfg.polyRev n)) ∧
  (∀ s m, MachineInv s → updateReady m m s → m = s.length.toNat → Holds (oldBytes s m) s →
    ∃ t, exec (.wupdate m m) s = .next t ∧ sumView t = crc32std s.cfg.polyRev (newBytes s m)) ∧
  (∀ s m n, ¬updateReady m n s → ∃ e info, exec (.wupdate m n) s = .next (raiseError e info s)) ∧
  (∀ s n, updateReady 0 n s → s.core = 0#32 → (∀ i < n, s.byteAt (0x800 + i) = 0#8) →
    ∃ t, exec (.wupdate 0 n) s = .next t ∧ t.core = 0#32) ∧
  (∀ s m n, updateReady m n s → ∃ t, exec (.wupdate m n) s = .next t ∧
    t.err = s.err ∧ t.errcode = s.errcode ∧ t.errinfo = s.errinfo)

/-- R168: sliding by m at once leaves CORE, LENGTH, ZC and OC as m slides by one byte, and growing by n
at once as n growths by one byte. The premise on XPC is the cache's invariant (R36). -/
def Obligations.StrideInvariance : Prop :=
  (∀ s m, updateReady m m s → s.xpc = xpow s.cfg.polyRev s.xpcN → ∃ t u, exec (.wupdate m m) s = .next t ∧
    slideOneByOne ((oldBytes s m).zip (newBytes s m)) s = .next u ∧ sameVisibleWindow t u) ∧
  (∀ s n, updateReady 0 n s → s.xpc = xpow s.cfg.polyRev s.xpcN → ∃ t u, exec (.wupdate 0 n) s = .next t ∧
    growOneByOne (newBytes s n) s = .next u ∧ sameVisibleWindow t u)

/-- R170: through the cache the power is XPow(k) in each of its three cases, and an extension by k leaves
XPC = XPow(k) and XPC_N = k. -/
def Obligations.CachedPowerIsXPow : Prop :=
  (∀ s k, s.xpc = xpow s.cfg.polyRev s.xpcN → cachedPower s k = xpow s.cfg.polyRev k) ∧
  (∀ s k, (k = s.xpcN → cachedPower s k = s.xpc) ∧
    (s.xpcN < k → cachedPower s k = (fun c => crcStep s.cfg.polyRev c 0#8)^[k - s.xpcN] s.xpc) ∧
    (k < s.xpcN → cachedPower s k = xpow s.cfg.polyRev k)) ∧
  (∀ s m n t, updateReady m n s → m < n → exec (.wupdate m n) s = .next t →
    t.xpc = cachedPower s (n - m) ∧ t.xpcN = n - m)

/-- R27 and R28: in every state that meets the invariant, OC stands for x^(32 + 8·(max(L,1) − 1)) mod G,
which is POLY_REV at L = 0, and ZC is the CRC of L zero bytes, whose complement stands for
ONES · x^(8L) mod G. -/
def Obligations.CorrectionPolynomials : Prop :=
  ∀ s : State, MachineInv s →
    rho32 s.oc = X ^ (32 + 8 * (max s.length.toNat 1 - 1)) %ₘ generator s.cfg.polyRev ∧
    (s.length = 0#64 → s.oc = s.cfg.polyRev ∧ s.zc = 0#32) ∧
    s.zc = crc32std s.cfg.polyRev (List.replicate s.length.toNat 0#8) ∧
    rho32 (~~~s.zc) = (rho32 0xFFFFFFFF#32 * X ^ (8 * s.length.toNat)) %ₘ generator s.cfg.polyRev

/-- R38 with R26 and R165: where the window registers are those of the bytes `win` and the step keeps the
caller contract, the next state's are those of the ghost window after the step. -/
def Obligations.StepTracksTheGhostWindow : Prop :=
  ∀ (win : List Byte) (s t : State), MachineInv s → Holds win s → contractStep win s → step s = .next t →
    Holds (ghostStep win s) t

/-- R169: after any number of steps that keep the caller contract, from hardware reset with any host
operations and schedule, and from any other state that meets the invariant and holds a window, a read of
SUM answers the standard checksum of exactly the bytes then in the window, and LENGTH is their number. -/
def Obligations.SumIsTheChecksumOfTheWindow : Prop :=
  (∀ (k : Nat) (cfg : Config) (ops : List HostOp) (q : List Agent) (t : State),
    contractRun k [] { State.resetOf cfg with host := ops, sched := q } →
    Sys2Proof.core.run k { State.resetOf cfg with host := ops, sched := q } = .next t →
    readAnswers 0x014#12
        (crc32std cfg.polyRev (ghostRun k [] { State.resetOf cfg with host := ops, sched := q })) t ∧
      t.length.toNat = (ghostRun k [] { State.resetOf cfg with host := ops, sched := q }).length) ∧
  (∀ (k : Nat) (win : List Byte) (s t : State), MachineInv s → Holds win s → contractRun k win s →
    Sys2Proof.core.run k s = .next t →
    readAnswers 0x014#12 (crc32std s.cfg.polyRev (ghostRun k win s)) t ∧
      t.length.toNat = (ghostRun k win s).length)

/-! ### Frames -/

/-- R24, R22, R23: BSTEP, MUL8 and MUL32 change RESULT and nothing else: no operand, window, error or
hidden register, and no byte of memory. -/
def Obligations.ArithmeticFrame : Prop :=
  ∀ i ∈ [Instr.bstep, Instr.mul8, Instr.mul32], ∀ s t : State, exec i s = .next t →
    t.opa = s.opa ∧ t.opb = s.opb ∧ t.length = s.length ∧ t.core = s.core ∧ t.zc = s.zc ∧ t.oc = s.oc ∧
    t.err = s.err ∧ t.errcode = s.errcode ∧ t.errinfo = s.errinfo ∧ t.pend = s.pend ∧
    t.xpc = s.xpc ∧ t.xpcN = s.xpcN ∧ t.cfg = s.cfg ∧ t.faults = s.faults ∧
    (∀ a, t.mem.read a = s.mem.read a ∧ t.byteAt a = s.byteAt a)

/-- R190, R191, R150, R162, R161: what the control and window commands leave unchanged: NOP everything;
CLRERR all but the error fields; WRESET all but the window and the cache; a WUPDATE all but the window,
the cache and the model's fault record where its preconditions hold, and all but the error fields and
that record where they do not (the model's choice, log 6). -/
def Obligations.ControlAndWindowFrames : Prop :=
  ∀ s t : State,
    (exec .nop s = .next t → t = s) ∧
    (∀ i ∈ [Instr.clrerr, Instr.wreset], exec i s = .next t →
      t.opa = s.opa ∧ t.opb = s.opb ∧ t.result = s.result ∧ t.pend = s.pend ∧ t.cfg = s.cfg ∧
      t.faults = s.faults ∧ ∀ a, t.mem.read a = s.mem.read a ∧ t.byteAt a = s.byteAt a) ∧
    (exec .clrerr s = .next t → t.length = s.length ∧ t.core = s.core ∧ t.zc = s.zc ∧ t.oc = s.oc ∧
      t.xpc = s.xpc ∧ t.xpcN = s.xpcN) ∧
    (exec .wreset s = .next t → t.err = s.err ∧ t.errcode = s.errcode ∧ t.errinfo = s.errinfo) ∧
    (∀ m n, exec (.wupdate m n) s = .next t →
      t.opa = s.opa ∧ t.opb = s.opb ∧ t.result = s.result ∧ t.pend = s.pend ∧ t.cfg = s.cfg ∧
      (∀ a, t.mem.read a = s.mem.read a ∧ t.byteAt a = s.byteAt a) ∧
      (updateReady m n s → t.err = s.err ∧ t.errcode = s.errcode ∧ t.errinfo = s.errinfo) ∧
      (¬updateReady m n s → t.length = s.length ∧ t.core = s.core ∧ t.zc = s.zc ∧ t.oc = s.oc ∧
        t.xpc = s.xpc ∧ t.xpcN = s.xpcN))

/-! ### Whole-machine rules -/

/-- The invariant holds right after hardware reset, in every configuration. -/
def Obligations.ResetMeetsTheInvariant : Prop := ∀ cfg : Config, MachineInv (State.resetOf cfg)

/-- The invariant is kept by every step of the host, the engine and the environment. -/
def Obligations.EveryStepKeepsTheInvariant : Prop :=
  ∀ s t : State, MachineInv s → step s = .next t → MachineInv t

/-- R230 and R39: hardware reset, at any time, gives every register its reset value, abandons a command in
flight with none of its effects, and leaves every buffer byte unwritten. -/
def Obligations.HardwareResetValues : Prop :=
  ∀ (s : State) (q : List Agent), ∃ t, step { s with sched := .reset :: q } = .next t ∧
    t.opa = 0#32 ∧ t.opb = 0#32 ∧ t.result = 0#32 ∧ t.length = 0#64 ∧ t.core = 0#32 ∧ t.zc = 0#32 ∧
    t.oc = s.cfg.polyRev ∧ readAnswers 0x014#12 0#32 t ∧ readAnswers 0x004#12 0#32 t ∧ t.errinfo = 0#32 ∧
    readAnswers 0x02C#12 s.cfg.polyRev t ∧ (∀ a, t.mem.read a = none) ∧ t.xpc = 0x80000000#32 ∧
    t.xpcN = 0 ∧ t.pend = none ∧ rho32 s.cfg.polyRev = X ^ 32 %ₘ generator s.cfg.polyRev

/-- R231: the parameters never change, so a read of POLY answers the same POLY_REV after every step. -/
def Obligations.ConfigurationNeverChanges : Prop :=
  ∀ s t : State, step s = .next t → t.cfg = s.cfg ∧ readAnswers 0x02C#12 s.cfg.polyRev t

/-- R22 to R28: which steps write which registers. RESULT changes only when BSTEP, MUL8 or MUL32
completes; OPA and OPB only when the host moves; LENGTH, CORE, ZC, OC and the cache only when WRESET or
WUPDATE completes; each of them also at hardware reset. -/
def Obligations.WhoWritesEachRegister : Prop :=
  ∀ s t : State, step s = .next t → nextAgent s ≠ .reset →
    (t.result ≠ s.result → completing s ∈ [some Instr.bstep, some Instr.mul8, some Instr.mul32]) ∧
    ((t.opa ≠ s.opa ∨ t.opb ≠ s.opb) → nextAgent s = .host ∧ s.pend = none) ∧
    ((t.length ≠ s.length ∨ t.core ≠ s.core ∨ t.zc ≠ s.zc ∨ t.oc ≠ s.oc ∨ t.xpc ≠ s.xpc ∨ t.xpcN ≠ s.xpcN) →
      completing s = some .wreset ∨ ∃ m n, completing s = some (.wupdate m n))

/-- R245: no command writes a buffer byte; a byte changes only when the host writes the word that holds
it, and hardware reset leaves every byte unwritten. -/
def Obligations.BufferBytesPersist : Prop :=
  (∀ s t, nextAgent s = .engine → step s = .next t →
    ∀ a, t.mem.read a = s.mem.read a ∧ t.byteAt a = s.byteAt a) ∧
  (∀ s t a, nextAgent s = .host → step s = .next t → t.mem.read a ≠ s.mem.read a →
    ∃ addr w rest, s.host = .tx (.write addr .four w) :: rest ∧ isBufferWord s.cfg addr ∧
      addr.toNat ≤ a ∧ a ≤ addr.toNat + 3) ∧
  (∀ s t a, nextAgent s = .reset → step s = .next t → t.mem.read a = none)

/-- R15 and R14: there is no stuck state: every step answers a next state, with no fault or refusal that
ends the run. -/
def Obligations.EveryStepAnswersANextState : Prop := ∀ s : State, ∃ t, step s = .next t

/-- R243, with log 1: under every schedule a WAIT ends, within two steps more than the schedule is long.
That the schedule is a finite list, after which the engine moves first, is the model's form of fairness. -/
def Obligations.WaitTerminates : Prop :=
  ∀ s : State, s.host = [.poll 0x004#12 1#32 0#32] →
    ∃ k t, k ≤ s.sched.length + 2 ∧ Sys2Proof.core.run k s = .next t ∧ t.host = []

/-! ### Host scripts -/

/-- R87 LOADB: run with no command in flight and the default order of log 1, the expansion writes the given bytes one after another from
`k` on, pads the last word with 0x00, and writes nothing else. -/
def Obligations.LoadbWritesItsBytes : Prop :=
  ∀ (s : State) (b : BufName) (k : Nat) (bytes : List Byte),
    k % 4 = 0 → k + bytes.length ≤ s.cfg.bufDepth → s.pend = none →
    ∃ ops t, ScriptLine.expand (.loadb b k bytes) = .ok ops ∧
      Sys2Proof.core.run ops.length { s with sched := [], host := ops } = .next t ∧ t.host = [] ∧
      t.faults = s.faults ∧
      (∀ i, (h : i < bytes.length) → t.mem.read (b.base + k + i) = some bytes[i]) ∧
      (∀ i, bytes.length ≤ i → i < 4 * ((bytes.length + 3) / 4) → t.mem.read (b.base + k + i) = some 0x00#8) ∧
      (∀ a, (a < b.base + k ∨ b.base + k + 4 * ((bytes.length + 3) / 4) ≤ a) → t.mem.read a = s.mem.read a)

/-- R87 DO: with no command in flight and the preconditions met, `DO <command>` runs to its end in three
steps when the engine completes at once (log 1), with exactly the command's effect; `CALL update`,
`CALL reset` and `CALL sum` expand to it and to the SUM read. -/
def Obligations.DoRunsTheCommand : Prop :=
  (∀ (s : State) (i : Instr), i.wellFormed = true → s.pend = none → s.sched = [] → s.host = [] →
    acceptCheck i s = none →
    ∃ ops t u, ScriptLine.expand (.doCmd i) = .ok ops ∧ exec i s = .next u ∧
      Sys2Proof.core.run 3 { s with host := ops } = .next t ∧
      t = { u with answer := some (.read (statusValue u) .ok) }) ∧
  (∀ m n, ScriptLine.expand (.callUpdate m n) = ScriptLine.expand (.doCmd (.wupdate m n))) ∧
  ScriptLine.expand .callReset = ScriptLine.expand (.doCmd .wreset) ∧
  ScriptLine.expand .callSum = .ok [.tx (.read 0x014#12 .four)] ∧
  (∀ m n, (2048 ≤ m ∨ 2048 ≤ n) → ScriptLine.expand (.callUpdate m n) = .error .countDoesNotFit)
end

