-- ==== Sys2Proof/Laws/State.lean ====
section
/-! SUPPORT. One lemma per field and named update of State, each true by rfl, so that no later proof
unfolds a record update; and what the byte and flag accessors read after each update. -/

namespace Sys2Proof.Machine

/-! ### raiseError -/

@[simp] theorem raiseError_cfg (e : ErrorName) (info : Word) (s : State) : (raiseError e info s).cfg = s.cfg := rfl
@[simp] theorem raiseError_opa (e : ErrorName) (info : Word) (s : State) : (raiseError e info s).opa = s.opa := rfl
@[simp] theorem raiseError_opb (e : ErrorName) (info : Word) (s : State) : (raiseError e info s).opb = s.opb := rfl
@[simp] theorem raiseError_result (e : ErrorName) (info : Word) (s : State) : (raiseError e info s).result = s.result := rfl
@[simp] theorem raiseError_length (e : ErrorName) (info : Word) (s : State) : (raiseError e info s).length = s.length := rfl
@[simp] theorem raiseError_core (e : ErrorName) (info : Word) (s : State) : (raiseError e info s).core = s.core := rfl
@[simp] theorem raiseError_zc (e : ErrorName) (info : Word) (s : State) : (raiseError e info s).zc = s.zc := rfl
@[simp] theorem raiseError_oc (e : ErrorName) (info : Word) (s : State) : (raiseError e info s).oc = s.oc := rfl
@[simp] theorem raiseError_err (e : ErrorName) (info : Word) (s : State) : (raiseError e info s).err = true := rfl
@[simp] theorem raiseError_errcode (e : ErrorName) (info : Word) (s : State) : (raiseError e info s).errcode = if s.err then s.errcode else e.code := rfl
@[simp] theorem raiseError_errinfo (e : ErrorName) (info : Word) (s : State) : (raiseError e info s).errinfo = if s.err then s.errinfo else info := rfl
@[simp] theorem raiseError_pend (e : ErrorName) (info : Word) (s : State) : (raiseError e info s).pend = s.pend := rfl
@[simp] theorem raiseError_mem (e : ErrorName) (info : Word) (s : State) : (raiseError e info s).mem = s.mem := rfl
@[simp] theorem raiseError_xpc (e : ErrorName) (info : Word) (s : State) : (raiseError e info s).xpc = s.xpc := rfl
@[simp] theorem raiseError_xpcN (e : ErrorName) (info : Word) (s : State) : (raiseError e info s).xpcN = s.xpcN := rfl
@[simp] theorem raiseError_host (e : ErrorName) (info : Word) (s : State) : (raiseError e info s).host = s.host := rfl
@[simp] theorem raiseError_sched (e : ErrorName) (info : Word) (s : State) : (raiseError e info s).sched = s.sched := rfl
@[simp] theorem raiseError_answer (e : ErrorName) (info : Word) (s : State) : (raiseError e info s).answer = s.answer := rfl
@[simp] theorem raiseError_faults (e : ErrorName) (info : Word) (s : State) : (raiseError e info s).faults = s.faults ++ [Fault.error e info] := rfl
@[simp] theorem raiseError_resets (e : ErrorName) (info : Word) (s : State) : (raiseError e info s).resets = s.resets := rfl
@[simp] theorem raiseError_byteAt (e : ErrorName) (info : Word) (s : State) (a : Nat) : (raiseError e info s).byteAt a = s.byteAt a := rfl
@[simp] theorem raiseError_unwritten (e : ErrorName) (info : Word) (s : State) (a : Nat) : (raiseError e info s).unwritten a = s.unwritten a := rfl

/-! ### clearError -/

@[simp] theorem clearError_cfg (s : State) : (clearError s).cfg = s.cfg := rfl
@[simp] theorem clearError_opa (s : State) : (clearError s).opa = s.opa := rfl
@[simp] theorem clearError_opb (s : State) : (clearError s).opb = s.opb := rfl
@[simp] theorem clearError_result (s : State) : (clearError s).result = s.result := rfl
@[simp] theorem clearError_length (s : State) : (clearError s).length = s.length := rfl
@[simp] theorem clearError_core (s : State) : (clearError s).core = s.core := rfl
@[simp] theorem clearError_zc (s : State) : (clearError s).zc = s.zc := rfl
@[simp] theorem clearError_oc (s : State) : (clearError s).oc = s.oc := rfl
@[simp] theorem clearError_err (s : State) : (clearError s).err = false := rfl
@[simp] theorem clearError_errcode (s : State) : (clearError s).errcode = 0#4 := rfl
@[simp] theorem clearError_errinfo (s : State) : (clearError s).errinfo = 0#32 := rfl
@[simp] theorem clearError_pend (s : State) : (clearError s).pend = s.pend := rfl
@[simp] theorem clearError_mem (s : State) : (clearError s).mem = s.mem := rfl
@[simp] theorem clearError_xpc (s : State) : (clearError s).xpc = s.xpc := rfl
@[simp] theorem clearError_xpcN (s : State) : (clearError s).xpcN = s.xpcN := rfl
@[simp] theorem clearError_host (s : State) : (clearError s).host = s.host := rfl
@[simp] theorem clearError_sched (s : State) : (clearError s).sched = s.sched := rfl
@[simp] theorem clearError_answer (s : State) : (clearError s).answer = s.answer := rfl
@[simp] theorem clearError_faults (s : State) : (clearError s).faults = s.faults := rfl
@[simp] theorem clearError_resets (s : State) : (clearError s).resets = s.resets := rfl
@[simp] theorem clearError_byteAt (s : State) (a : Nat) : (clearError s).byteAt a = s.byteAt a := rfl
@[simp] theorem clearError_unwritten (s : State) (a : Nat) : (clearError s).unwritten a = s.unwritten a := rfl

/-! ### accept -/

@[simp] theorem accept_cfg (w : Word) (s : State) : (accept w s).cfg = s.cfg := rfl
@[simp] theorem accept_opa (w : Word) (s : State) : (accept w s).opa = s.opa := rfl
@[simp] theorem accept_opb (w : Word) (s : State) : (accept w s).opb = s.opb := rfl
@[simp] theorem accept_result (w : Word) (s : State) : (accept w s).result = s.result := rfl
@[simp] theorem accept_length (w : Word) (s : State) : (accept w s).length = s.length := rfl
@[simp] theorem accept_core (w : Word) (s : State) : (accept w s).core = s.core := rfl
@[simp] theorem accept_zc (w : Word) (s : State) : (accept w s).zc = s.zc := rfl
@[simp] theorem accept_oc (w : Word) (s : State) : (accept w s).oc = s.oc := rfl
@[simp] theorem accept_err (w : Word) (s : State) : (accept w s).err = s.err := rfl
@[simp] theorem accept_errcode (w : Word) (s : State) : (accept w s).errcode = s.errcode := rfl
@[simp] theorem accept_errinfo (w : Word) (s : State) : (accept w s).errinfo = s.errinfo := rfl
@[simp] theorem accept_pend (w : Word) (s : State) : (accept w s).pend = some w := rfl
@[simp] theorem accept_mem (w : Word) (s : State) : (accept w s).mem = s.mem := rfl
@[simp] theorem accept_xpc (w : Word) (s : State) : (accept w s).xpc = s.xpc := rfl
@[simp] theorem accept_xpcN (w : Word) (s : State) : (accept w s).xpcN = s.xpcN := rfl
@[simp] theorem accept_host (w : Word) (s : State) : (accept w s).host = s.host := rfl
@[simp] theorem accept_sched (w : Word) (s : State) : (accept w s).sched = s.sched := rfl
@[simp] theorem accept_answer (w : Word) (s : State) : (accept w s).answer = s.answer := rfl
@[simp] theorem accept_faults (w : Word) (s : State) : (accept w s).faults = s.faults := rfl
@[simp] theorem accept_resets (w : Word) (s : State) : (accept w s).resets = s.resets := rfl
@[simp] theorem accept_byteAt (w : Word) (s : State) (a : Nat) : (accept w s).byteAt a = s.byteAt a := rfl
@[simp] theorem accept_unwritten (w : Word) (s : State) (a : Nat) : (accept w s).unwritten a = s.unwritten a := rfl

/-! ### complete -/

@[simp] theorem complete_cfg (s : State) : (complete s).cfg = s.cfg := rfl
@[simp] theorem complete_opa (s : State) : (complete s).opa = s.opa := rfl
@[simp] theorem complete_opb (s : State) : (complete s).opb = s.opb := rfl
@[simp] theorem complete_result (s : State) : (complete s).result = s.result := rfl
@[simp] theorem complete_length (s : State) : (complete s).length = s.length := rfl
@[simp] theorem complete_core (s : State) : (complete s).core = s.core := rfl
@[simp] theorem complete_zc (s : State) : (complete s).zc = s.zc := rfl
@[simp] theorem complete_oc (s : State) : (complete s).oc = s.oc := rfl
@[simp] theorem complete_err (s : State) : (complete s).err = s.err := rfl
@[simp] theorem complete_errcode (s : State) : (complete s).errcode = s.errcode := rfl
@[simp] theorem complete_errinfo (s : State) : (complete s).errinfo = s.errinfo := rfl
@[simp] theorem complete_pend (s : State) : (complete s).pend = none := rfl
@[simp] theorem complete_mem (s : State) : (complete s).mem = s.mem := rfl
@[simp] theorem complete_xpc (s : State) : (complete s).xpc = s.xpc := rfl
@[simp] theorem complete_xpcN (s : State) : (complete s).xpcN = s.xpcN := rfl
@[simp] theorem complete_host (s : State) : (complete s).host = s.host := rfl
@[simp] theorem complete_sched (s : State) : (complete s).sched = s.sched := rfl
@[simp] theorem complete_answer (s : State) : (complete s).answer = s.answer := rfl
@[simp] theorem complete_faults (s : State) : (complete s).faults = s.faults := rfl
@[simp] theorem complete_resets (s : State) : (complete s).resets = s.resets := rfl
@[simp] theorem complete_byteAt (s : State) (a : Nat) : (complete s).byteAt a = s.byteAt a := rfl
@[simp] theorem complete_unwritten (s : State) (a : Nat) : (complete s).unwritten a = s.unwritten a := rfl

/-! ### emptyWindow -/

@[simp] theorem emptyWindow_cfg (s : State) : (emptyWindow s).cfg = s.cfg := rfl
@[simp] theorem emptyWindow_opa (s : State) : (emptyWindow s).opa = s.opa := rfl
@[simp] theorem emptyWindow_opb (s : State) : (emptyWindow s).opb = s.opb := rfl
@[simp] theorem emptyWindow_result (s : State) : (emptyWindow s).result = s.result := rfl
@[simp] theorem emptyWindow_length (s : State) : (emptyWindow s).length = 0#64 := rfl
@[simp] theorem emptyWindow_core (s : State) : (emptyWindow s).core = 0#32 := rfl
@[simp] theorem emptyWindow_zc (s : State) : (emptyWindow s).zc = 0#32 := rfl
@[simp] theorem emptyWindow_oc (s : State) : (emptyWindow s).oc = s.cfg.polyRev := rfl
@[simp] theorem emptyWindow_err (s : State) : (emptyWindow s).err = s.err := rfl
@[simp] theorem emptyWindow_errcode (s : State) : (emptyWindow s).errcode = s.errcode := rfl
@[simp] theorem emptyWindow_errinfo (s : State) : (emptyWindow s).errinfo = s.errinfo := rfl
@[simp] theorem emptyWindow_pend (s : State) : (emptyWindow s).pend = s.pend := rfl
@[simp] theorem emptyWindow_mem (s : State) : (emptyWindow s).mem = s.mem := rfl
@[simp] theorem emptyWindow_xpc (s : State) : (emptyWindow s).xpc = 0x80000000#32 := rfl
@[simp] theorem emptyWindow_xpcN (s : State) : (emptyWindow s).xpcN = 0 := rfl
@[simp] theorem emptyWindow_host (s : State) : (emptyWindow s).host = s.host := rfl
@[simp] theorem emptyWindow_sched (s : State) : (emptyWindow s).sched = s.sched := rfl
@[simp] theorem emptyWindow_answer (s : State) : (emptyWindow s).answer = s.answer := rfl
@[simp] theorem emptyWindow_faults (s : State) : (emptyWindow s).faults = s.faults := rfl
@[simp] theorem emptyWindow_resets (s : State) : (emptyWindow s).resets = s.resets := rfl
@[simp] theorem emptyWindow_byteAt (s : State) (a : Nat) : (emptyWindow s).byteAt a = s.byteAt a := rfl
@[simp] theorem emptyWindow_unwritten (s : State) (a : Nat) : (emptyWindow s).unwritten a = s.unwritten a := rfl

/-! ### recordUnwritten -/

@[simp] theorem recordUnwritten_cfg (used : List Nat) (s : State) : (s.recordUnwritten used).cfg = s.cfg := rfl
@[simp] theorem recordUnwritten_opa (used : List Nat) (s : State) : (s.recordUnwritten used).opa = s.opa := rfl
@[simp] theorem recordUnwritten_opb (used : List Nat) (s : State) : (s.recordUnwritten used).opb = s.opb := rfl
@[simp] theorem recordUnwritten_result (used : List Nat) (s : State) : (s.recordUnwritten used).result = s.result := rfl
@[simp] theorem recordUnwritten_length (used : List Nat) (s : State) : (s.recordUnwritten used).length = s.length := rfl
@[simp] theorem recordUnwritten_core (used : List Nat) (s : State) : (s.recordUnwritten used).core = s.core := rfl
@[simp] theorem recordUnwritten_zc (used : List Nat) (s : State) : (s.recordUnwritten used).zc = s.zc := rfl
@[simp] theorem recordUnwritten_oc (used : List Nat) (s : State) : (s.recordUnwritten used).oc = s.oc := rfl
@[simp] theorem recordUnwritten_err (used : List Nat) (s : State) : (s.recordUnwritten used).err = s.err := rfl
@[simp] theorem recordUnwritten_errcode (used : List Nat) (s : State) : (s.recordUnwritten used).errcode = s.errcode := rfl
@[simp] theorem recordUnwritten_errinfo (used : List Nat) (s : State) : (s.recordUnwritten used).errinfo = s.errinfo := rfl
@[simp] theorem recordUnwritten_pend (used : List Nat) (s : State) : (s.recordUnwritten used).pend = s.pend := rfl
@[simp] theorem recordUnwritten_mem (used : List Nat) (s : State) : (s.recordUnwritten used).mem = s.mem := rfl
@[simp] theorem recordUnwritten_xpc (used : List Nat) (s : State) : (s.recordUnwritten used).xpc = s.xpc := rfl
@[simp] theorem recordUnwritten_xpcN (used : List Nat) (s : State) : (s.recordUnwritten used).xpcN = s.xpcN := rfl
@[simp] theorem recordUnwritten_host (used : List Nat) (s : State) : (s.recordUnwritten used).host = s.host := rfl
@[simp] theorem recordUnwritten_sched (used : List Nat) (s : State) : (s.recordUnwritten used).sched = s.sched := rfl
@[simp] theorem recordUnwritten_answer (used : List Nat) (s : State) : (s.recordUnwritten used).answer = s.answer := rfl
@[simp] theorem recordUnwritten_faults (used : List Nat) (s : State) : (s.recordUnwritten used).faults = s.faults ++ (used.filter s.unwritten).map Fault.unwrittenByte := rfl
@[simp] theorem recordUnwritten_resets (used : List Nat) (s : State) : (s.recordUnwritten used).resets = s.resets := rfl
@[simp] theorem recordUnwritten_byteAt (used : List Nat) (s : State) (a : Nat) : (s.recordUnwritten used).byteAt a = s.byteAt a := rfl
@[simp] theorem recordUnwritten_unwritten (used : List Nat) (s : State) (a : Nat) : (s.recordUnwritten used).unwritten a = s.unwritten a := rfl

/-! ### setResult -/

@[simp] theorem setResult_cfg (v : Word) (s : State) : (setResult v s).cfg = s.cfg := rfl
@[simp] theorem setResult_opa (v : Word) (s : State) : (setResult v s).opa = s.opa := rfl
@[simp] theorem setResult_opb (v : Word) (s : State) : (setResult v s).opb = s.opb := rfl
@[simp] theorem setResult_result (v : Word) (s : State) : (setResult v s).result = v := rfl
@[simp] theorem setResult_length (v : Word) (s : State) : (setResult v s).length = s.length := rfl
@[simp] theorem setResult_core (v : Word) (s : State) : (setResult v s).core = s.core := rfl
@[simp] theorem setResult_zc (v : Word) (s : State) : (setResult v s).zc = s.zc := rfl
@[simp] theorem setResult_oc (v : Word) (s : State) : (setResult v s).oc = s.oc := rfl
@[simp] theorem setResult_err (v : Word) (s : State) : (setResult v s).err = s.err := rfl
@[simp] theorem setResult_errcode (v : Word) (s : State) : (setResult v s).errcode = s.errcode := rfl
@[simp] theorem setResult_errinfo (v : Word) (s : State) : (setResult v s).errinfo = s.errinfo := rfl
@[simp] theorem setResult_pend (v : Word) (s : State) : (setResult v s).pend = s.pend := rfl
@[simp] theorem setResult_mem (v : Word) (s : State) : (setResult v s).mem = s.mem := rfl
@[simp] theorem setResult_xpc (v : Word) (s : State) : (setResult v s).xpc = s.xpc := rfl
@[simp] theorem setResult_xpcN (v : Word) (s : State) : (setResult v s).xpcN = s.xpcN := rfl
@[simp] theorem setResult_host (v : Word) (s : State) : (setResult v s).host = s.host := rfl
@[simp] theorem setResult_sched (v : Word) (s : State) : (setResult v s).sched = s.sched := rfl
@[simp] theorem setResult_answer (v : Word) (s : State) : (setResult v s).answer = s.answer := rfl
@[simp] theorem setResult_faults (v : Word) (s : State) : (setResult v s).faults = s.faults := rfl
@[simp] theorem setResult_resets (v : Word) (s : State) : (setResult v s).resets = s.resets := rfl
@[simp] theorem setResult_byteAt (v : Word) (s : State) (a : Nat) : (setResult v s).byteAt a = s.byteAt a := rfl
@[simp] theorem setResult_unwritten (v : Word) (s : State) (a : Nat) : (setResult v s).unwritten a = s.unwritten a := rfl

/-! ### answerWith -/

@[simp] theorem answerWith_cfg (a : BusAnswer) (s : State) : (answerWith a s).cfg = s.cfg := rfl
@[simp] theorem answerWith_opa (a : BusAnswer) (s : State) : (answerWith a s).opa = s.opa := rfl
@[simp] theorem answerWith_opb (a : BusAnswer) (s : State) : (answerWith a s).opb = s.opb := rfl
@[simp] theorem answerWith_result (a : BusAnswer) (s : State) : (answerWith a s).result = s.result := rfl
@[simp] theorem answerWith_length (a : BusAnswer) (s : State) : (answerWith a s).length = s.length := rfl
@[simp] theorem answerWith_core (a : BusAnswer) (s : State) : (answerWith a s).core = s.core := rfl
@[simp] theorem answerWith_zc (a : BusAnswer) (s : State) : (answerWith a s).zc = s.zc := rfl
@[simp] theorem answerWith_oc (a : BusAnswer) (s : State) : (answerWith a s).oc = s.oc := rfl
@[simp] theorem answerWith_err (a : BusAnswer) (s : State) : (answerWith a s).err = s.err := rfl
@[simp] theorem answerWith_errcode (a : BusAnswer) (s : State) : (answerWith a s).errcode = s.errcode := rfl
@[simp] theorem answerWith_errinfo (a : BusAnswer) (s : State) : (answerWith a s).errinfo = s.errinfo := rfl
@[simp] theorem answerWith_pend (a : BusAnswer) (s : State) : (answerWith a s).pend = s.pend := rfl
@[simp] theorem answerWith_mem (a : BusAnswer) (s : State) : (answerWith a s).mem = s.mem := rfl
@[simp] theorem answerWith_xpc (a : BusAnswer) (s : State) : (answerWith a s).xpc = s.xpc := rfl
@[simp] theorem answerWith_xpcN (a : BusAnswer) (s : State) : (answerWith a s).xpcN = s.xpcN := rfl
@[simp] theorem answerWith_host (a : BusAnswer) (s : State) : (answerWith a s).host = s.host := rfl
@[simp] theorem answerWith_sched (a : BusAnswer) (s : State) : (answerWith a s).sched = s.sched := rfl
@[simp] theorem answerWith_answer (a : BusAnswer) (s : State) : (answerWith a s).answer = some a := rfl
@[simp] theorem answerWith_faults (a : BusAnswer) (s : State) : (answerWith a s).faults = s.faults := rfl
@[simp] theorem answerWith_resets (a : BusAnswer) (s : State) : (answerWith a s).resets = s.resets := rfl
@[simp] theorem answerWith_byteAt (a : BusAnswer) (s : State) (addr : Nat) : (answerWith a s).byteAt addr = s.byteAt addr := rfl
@[simp] theorem answerWith_unwritten (a : BusAnswer) (s : State) (addr : Nat) : (answerWith a s).unwritten addr = s.unwritten addr := rfl

/-! ### takeTurn -/

@[simp] theorem takeTurn_cfg (s : State) : (takeTurn s).cfg = s.cfg := rfl
@[simp] theorem takeTurn_opa (s : State) : (takeTurn s).opa = s.opa := rfl
@[simp] theorem takeTurn_opb (s : State) : (takeTurn s).opb = s.opb := rfl
@[simp] theorem takeTurn_result (s : State) : (takeTurn s).result = s.result := rfl
@[simp] theorem takeTurn_length (s : State) : (takeTurn s).length = s.length := rfl
@[simp] theorem takeTurn_core (s : State) : (takeTurn s).core = s.core := rfl
@[simp] theorem takeTurn_zc (s : State) : (takeTurn s).zc = s.zc := rfl
@[simp] theorem takeTurn_oc (s : State) : (takeTurn s).oc = s.oc := rfl
@[simp] theorem takeTurn_err (s : State) : (takeTurn s).err = s.err := rfl
@[simp] theorem takeTurn_errcode (s : State) : (takeTurn s).errcode = s.errcode := rfl
@[simp] theorem takeTurn_errinfo (s : State) : (takeTurn s).errinfo = s.errinfo := rfl
@[simp] theorem takeTurn_pend (s : State) : (takeTurn s).pend = s.pend := rfl
@[simp] theorem takeTurn_mem (s : State) : (takeTurn s).mem = s.mem := rfl
@[simp] theorem takeTurn_xpc (s : State) : (takeTurn s).xpc = s.xpc := rfl
@[simp] theorem takeTurn_xpcN (s : State) : (takeTurn s).xpcN = s.xpcN := rfl
@[simp] theorem takeTurn_host (s : State) : (takeTurn s).host = s.host := rfl
@[simp] theorem takeTurn_sched (s : State) : (takeTurn s).sched = s.sched.tail := rfl
@[simp] theorem takeTurn_answer (s : State) : (takeTurn s).answer = s.answer := rfl
@[simp] theorem takeTurn_faults (s : State) : (takeTurn s).faults = s.faults := rfl
@[simp] theorem takeTurn_resets (s : State) : (takeTurn s).resets = s.resets := rfl
@[simp] theorem takeTurn_byteAt (s : State) (a : Nat) : (takeTurn s).byteAt a = s.byteAt a := rfl
@[simp] theorem takeTurn_unwritten (s : State) (a : Nat) : (takeTurn s).unwritten a = s.unwritten a := rfl

/-! ### placeCommand -/

@[simp] theorem placeCommand_cfg (w : Word) (s : State) : (placeCommand w s).cfg = s.cfg := rfl
@[simp] theorem placeCommand_opa (w : Word) (s : State) : (placeCommand w s).opa = s.opa := rfl
@[simp] theorem placeCommand_opb (w : Word) (s : State) : (placeCommand w s).opb = s.opb := rfl
@[simp] theorem placeCommand_result (w : Word) (s : State) : (placeCommand w s).result = s.result := rfl
@[simp] theorem placeCommand_length (w : Word) (s : State) : (placeCommand w s).length = s.length := rfl
@[simp] theorem placeCommand_core (w : Word) (s : State) : (placeCommand w s).core = s.core := rfl
@[simp] theorem placeCommand_zc (w : Word) (s : State) : (placeCommand w s).zc = s.zc := rfl
@[simp] theorem placeCommand_oc (w : Word) (s : State) : (placeCommand w s).oc = s.oc := rfl
@[simp] theorem placeCommand_err (w : Word) (s : State) : (placeCommand w s).err = s.err := rfl
@[simp] theorem placeCommand_errcode (w : Word) (s : State) : (placeCommand w s).errcode = s.errcode := rfl
@[simp] theorem placeCommand_errinfo (w : Word) (s : State) : (placeCommand w s).errinfo = s.errinfo := rfl
@[simp] theorem placeCommand_pend (w : Word) (s : State) : (placeCommand w s).pend = some w := rfl
@[simp] theorem placeCommand_mem (w : Word) (s : State) : (placeCommand w s).mem = s.mem := rfl
@[simp] theorem placeCommand_xpc (w : Word) (s : State) : (placeCommand w s).xpc = s.xpc := rfl
@[simp] theorem placeCommand_xpcN (w : Word) (s : State) : (placeCommand w s).xpcN = s.xpcN := rfl
@[simp] theorem placeCommand_host (w : Word) (s : State) : (placeCommand w s).host = s.host := rfl
@[simp] theorem placeCommand_sched (w : Word) (s : State) : (placeCommand w s).sched = .engine :: s.sched := rfl
@[simp] theorem placeCommand_answer (w : Word) (s : State) : (placeCommand w s).answer = s.answer := rfl
@[simp] theorem placeCommand_faults (w : Word) (s : State) : (placeCommand w s).faults = s.faults := rfl
@[simp] theorem placeCommand_resets (w : Word) (s : State) : (placeCommand w s).resets = s.resets := rfl
@[simp] theorem placeCommand_byteAt (w : Word) (s : State) (a : Nat) : (placeCommand w s).byteAt a = s.byteAt a := rfl
@[simp] theorem placeCommand_unwritten (w : Word) (s : State) (a : Nat) : (placeCommand w s).unwritten a = s.unwritten a := rfl

/-! ### hardwareReset -/

@[simp] theorem hardwareReset_cfg (s : State) : (hardwareReset s).cfg = s.cfg := rfl
@[simp] theorem hardwareReset_opa (s : State) : (hardwareReset s).opa = 0#32 := rfl
@[simp] theorem hardwareReset_opb (s : State) : (hardwareReset s).opb = 0#32 := rfl
@[simp] theorem hardwareReset_result (s : State) : (hardwareReset s).result = 0#32 := rfl
@[simp] theorem hardwareReset_length (s : State) : (hardwareReset s).length = 0#64 := rfl
@[simp] theorem hardwareReset_core (s : State) : (hardwareReset s).core = 0#32 := rfl
@[simp] theorem hardwareReset_zc (s : State) : (hardwareReset s).zc = 0#32 := rfl
@[simp] theorem hardwareReset_oc (s : State) : (hardwareReset s).oc = s.cfg.polyRev := rfl
@[simp] theorem hardwareReset_err (s : State) : (hardwareReset s).err = false := rfl
@[simp] theorem hardwareReset_errcode (s : State) : (hardwareReset s).errcode = 0#4 := rfl
@[simp] theorem hardwareReset_errinfo (s : State) : (hardwareReset s).errinfo = 0#32 := rfl
@[simp] theorem hardwareReset_pend (s : State) : (hardwareReset s).pend = none := rfl
@[simp] theorem hardwareReset_mem (s : State) : (hardwareReset s).mem = [] := rfl
@[simp] theorem hardwareReset_xpc (s : State) : (hardwareReset s).xpc = 0x80000000#32 := rfl
@[simp] theorem hardwareReset_xpcN (s : State) : (hardwareReset s).xpcN = 0 := rfl
@[simp] theorem hardwareReset_host (s : State) : (hardwareReset s).host = s.host := rfl
@[simp] theorem hardwareReset_sched (s : State) : (hardwareReset s).sched = s.sched := rfl
@[simp] theorem hardwareReset_answer (s : State) : (hardwareReset s).answer = s.answer := rfl
@[simp] theorem hardwareReset_faults (s : State) : (hardwareReset s).faults = s.faults := rfl
@[simp] theorem hardwareReset_resets (s : State) : (hardwareReset s).resets = s.resets + 1 := rfl

/-! ### The state right after reset -/

@[simp] theorem resetOf_cfg (cfg : Config) : (State.resetOf cfg).cfg = cfg := rfl
@[simp] theorem resetOf_opa (cfg : Config) : (State.resetOf cfg).opa = 0#32 := rfl
@[simp] theorem resetOf_opb (cfg : Config) : (State.resetOf cfg).opb = 0#32 := rfl
@[simp] theorem resetOf_result (cfg : Config) : (State.resetOf cfg).result = 0#32 := rfl
@[simp] theorem resetOf_length (cfg : Config) : (State.resetOf cfg).length = 0#64 := rfl
@[simp] theorem resetOf_core (cfg : Config) : (State.resetOf cfg).core = 0#32 := rfl
@[simp] theorem resetOf_zc (cfg : Config) : (State.resetOf cfg).zc = 0#32 := rfl
@[simp] theorem resetOf_oc (cfg : Config) : (State.resetOf cfg).oc = cfg.polyRev := rfl
@[simp] theorem resetOf_err (cfg : Config) : (State.resetOf cfg).err = false := rfl
@[simp] theorem resetOf_errcode (cfg : Config) : (State.resetOf cfg).errcode = 0#4 := rfl
@[simp] theorem resetOf_errinfo (cfg : Config) : (State.resetOf cfg).errinfo = 0#32 := rfl
@[simp] theorem resetOf_pend (cfg : Config) : (State.resetOf cfg).pend = none := rfl
@[simp] theorem resetOf_mem (cfg : Config) : (State.resetOf cfg).mem = [] := rfl
@[simp] theorem resetOf_xpc (cfg : Config) : (State.resetOf cfg).xpc = 0x80000000#32 := rfl
@[simp] theorem resetOf_xpcN (cfg : Config) : (State.resetOf cfg).xpcN = 0 := rfl
@[simp] theorem resetOf_host (cfg : Config) : (State.resetOf cfg).host = [] := rfl
@[simp] theorem resetOf_sched (cfg : Config) : (State.resetOf cfg).sched = [] := rfl
@[simp] theorem resetOf_answer (cfg : Config) : (State.resetOf cfg).answer = none := rfl
@[simp] theorem resetOf_faults (cfg : Config) : (State.resetOf cfg).faults = [] := rfl
@[simp] theorem resetOf_resets (cfg : Config) : (State.resetOf cfg).resets = 0 := rfl

end Sys2Proof.Machine
end

