-- ==== Sys2Proof/Laws/Bus.lean ====
section
/-! SUPPORT. The bus: where each offset lies in the address map (20_memory.md R53), and everything one
transaction can do. -/

namespace Sys2Proof.Machine

/-- A whole-word access is one at a multiple of four (R54). -/
theorem wholeWord_four (addr : Offset) : wholeWord addr .four = true ↔ addr.toNat % 4 = 0 := by
  simp only [wholeWord, Bool.and_eq_true, decide_eq_true_eq, true_and]
  rw [← BitVec.toNat_inj]
  simp [BitVec.extractLsb'_toNat]

/-- A narrow or misaligned access is not a whole word (R54). -/
theorem wholeWord_eq_false {addr : Offset} {size : AccessSize} (h : size ≠ .four ∨ addr.toNat % 4 ≠ 0) :
    wholeWord addr size = false := by
  by_cases hs : size = .four
  · subst hs
    rcases h with h | h
    · exact absurd rfl h
    · exact Bool.eq_false_iff.mpr fun hc => h ((wholeWord_four addr).mp hc)
  · simp [wholeWord, hs]

theorem bufDepth_bounds (cfg : Config) : 4 ≤ cfg.bufDepth ∧ cfg.bufDepth ≤ 1024 ∧ cfg.bufDepth % 4 = 0 := by
  unfold Config.bufDepth
  omega

theorem isBufferByte_iff (cfg : Config) (a : Nat) : isBufferByte cfg a = true ↔
    ((0x400 ≤ a ∧ a < 0x400 + cfg.bufDepth) ∨ (0x800 ≤ a ∧ a < 0x800 + cfg.bufDepth)) := by
  simp only [isBufferByte, Bool.or_eq_true, Bool.and_eq_true, decide_eq_true_eq]
  rfl

/-- The four bytes of an aligned buffer word are all buffer bytes, for BUF_DEPTH is a multiple of 4. -/
theorem isBufferByte_word {cfg : Config} {a b : Nat} (ha : a % 4 = 0) (h : isBufferByte cfg a = true)
    (h1 : a ≤ b) (h2 : b ≤ a + 3) : isBufferByte cfg b = true := by
  have hd := bufDepth_bounds cfg
  rw [isBufferByte_iff] at h ⊢
  omega

theorem regionOf_reg (cfg : Config) (r : RegName) : regionOf cfg r.offset = .reg r := by
  cases r <;> rfl

theorem regionOf_above (cfg : Config) (addr : Offset) (h : 0x34 ≤ addr.toNat) :
    regionOf cfg addr = if isBufferByte cfg addr.toNat then .buffer else .reserved := by
  have : RegName.all.find? (fun r => decide (r.offset = addr)) = none := by
    rw [List.find?_eq_none]
    intro r _
    simp only [decide_eq_true_eq]
    rintro rfl
    revert h
    cases r <;> decide
  rw [regionOf, this]

theorem regionOf_buffer {cfg : Config} {addr : Offset} (h : isBufferByte cfg addr.toNat = true) :
    regionOf cfg addr = .buffer := by
  have := (isBufferByte_iff _ _).mp h
  rw [regionOf_above cfg addr (by omega), if_pos h]

theorem isBufferByte_of_region {cfg : Config} {addr : Offset} (h : regionOf cfg addr = .buffer) :
    isBufferByte cfg addr.toNat = true := by
  unfold regionOf at h
  split at h
  · cases h
  · split at h
    · assumption
    · cases h

/-- A command word is refused with an error, or it goes to PEND (30_encoding.md R84). -/
theorem issueCommand_cases (w : Word) (s : State) :
    (∃ e, issueCommand w s = raiseError e w s) ∨
    (∃ i, decode w = .ok i ∧ acceptCheck i s = none ∧ issueCommand w s = accept w s) := by
  unfold issueCommand
  cases hd : decode w with
  | error e => exact .inl ⟨_, rfl⟩
  | ok i =>
    cases hc : acceptCheck i s with
    | some e => exact .inl ⟨e, by simp [hc]⟩
    | none => exact .inr ⟨i, rfl, hc, by simp [hc]⟩

/-! ### One equation per case of an access -/

theorem hostRead_bad {addr : Offset} {size : AccessSize} (s : State) (h : wholeWord addr size = false) :
    hostRead addr size s = refuseAccess .badAccess addr (.read 0#32 .err) s := by
  unfold hostRead
  rw [h]
  rfl

theorem hostRead_reg {addr : Offset} {size : AccessSize} {r : RegName} {s : State}
    (h : wholeWord addr size = true) (hr : regionOf s.cfg addr = .reg r) :
    hostRead addr size s = answerWith (.read (readRegister r s) .ok) s := by
  unfold hostRead
  rw [h, hr]
  rfl

theorem hostRead_buffer {addr : Offset} {size : AccessSize} {s : State}
    (h : wholeWord addr size = true) (hr : regionOf s.cfg addr = .buffer) :
    hostRead addr size s = answerWith (.read (s.wordAt addr.toNat) .ok)
      (s.recordUnwritten [addr.toNat, addr.toNat + 1, addr.toNat + 2, addr.toNat + 3]) := by
  unfold hostRead
  rw [h, hr]
  rfl

theorem hostRead_reserved {addr : Offset} {size : AccessSize} {s : State}
    (h : wholeWord addr size = true) (hr : regionOf s.cfg addr = .reserved) :
    hostRead addr size s = refuseAccess .badAccess addr (.read 0#32 .err) s := by
  unfold hostRead
  rw [h, hr]
  rfl

theorem hostWrite_bad {addr : Offset} {size : AccessSize} (w : Word) (s : State)
    (h : wholeWord addr size = false) :
    hostWrite addr size w s = refuseAccess .badAccess addr (.write .err) s := by
  unfold hostWrite
  rw [h]
  rfl

theorem hostWrite_none {addr : Offset} {size : AccessSize} {w : Word} {s : State}
    (h : writeEffect (regionOf s.cfg addr) addr w s = none) :
    hostWrite addr size w s = refuseAccess .badAccess addr (.write .err) s := by
  unfold hostWrite
  rw [h]
  cases wholeWord addr size <;> rfl

theorem hostWrite_busy {addr : Offset} {size : AccessSize} {w : Word} {s t : State}
    (hw : wholeWord addr size = true) (h : writeEffect (regionOf s.cfg addr) addr w s = some t)
    (hb : s.busy = true) :
    hostWrite addr size w s = refuseAccess .busyViolation addr (.write .err) s := by
  unfold hostWrite
  rw [hw, h, hb]
  rfl

theorem hostWrite_ok {addr : Offset} {size : AccessSize} {w : Word} {s t : State}
    (hw : wholeWord addr size = true) (h : writeEffect (regionOf s.cfg addr) addr w s = some t)
    (hb : s.busy = false) : hostWrite addr size w s = answerWith (.write .ok) t := by
  unfold hostWrite
  rw [hw, h, hb]
  rfl

theorem busy_of_pend {s : State} {c : Word} (h : s.pend = some c) : s.busy = true := by
  unfold State.busy
  rw [h]
  rfl

theorem not_busy_of_pend {s : State} (h : s.pend = none) : s.busy = false := by
  unfold State.busy
  rw [h]
  rfl

/-- Everything one transaction can do: a read answers (and may record unwritten bytes); an access is
refused with an error; or, with no command in flight, a write issues a command, writes OPA or OPB, or
writes a buffer word. -/
theorem access_cases (x : Transaction) (s : State) :
    (∃ v used, access x s = answerWith (.read v .ok) (s.recordUnwritten used)) ∨
    (∃ e addr a, access x s = refuseAccess e addr a s) ∨
    (s.pend = none ∧ ∃ w, access x s = answerWith (.write .ok) (issueCommand w s)) ∨
    (s.pend = none ∧ ∃ w, access x s = answerWith (.write .ok) { s with opa := w }) ∨
    (s.pend = none ∧ ∃ w, access x s = answerWith (.write .ok) { s with opb := w }) ∨
    (s.pend = none ∧ ∃ addr w, x = .write addr .four w ∧ addr.toNat % 4 = 0 ∧
      isBufferByte s.cfg addr.toNat = true ∧
      access x s = answerWith (.write .ok) { s with mem := s.mem.writeWord addr.toNat w }) := by
  cases x with
  | read addr size =>
    change (∃ v used, hostRead addr size s = _) ∨ (∃ e ad a, hostRead addr size s = _) ∨ _
    cases hw : wholeWord addr size with
    | false => exact .inr (.inl ⟨_, _, _, hostRead_bad s hw⟩)
    | true =>
      cases hr : regionOf s.cfg addr with
      | reg r => exact .inl ⟨readRegister r s, [], by rw [hostRead_reg hw hr]; simp [State.recordUnwritten]⟩
      | buffer => exact .inl ⟨_, _, hostRead_buffer hw hr⟩
      | reserved => exact .inr (.inl ⟨_, _, _, hostRead_reserved hw hr⟩)
  | write addr size w =>
    have hx : access (.write addr size w) s = hostWrite addr size w s := rfl
    rw [hx]
    cases hw : wholeWord addr size with
    | false => exact .inr (.inl ⟨_, _, _, hostWrite_bad w s hw⟩)
    | true =>
      cases he : writeEffect (regionOf s.cfg addr) addr w s with
      | none => exact .inr (.inl ⟨_, _, _, hostWrite_none he⟩)
      | some t =>
        cases hp : s.pend with
        | some c => exact .inr (.inl ⟨_, _, _, hostWrite_busy hw he (busy_of_pend hp)⟩)
        | none =>
          rw [hostWrite_ok hw he (not_busy_of_pend hp)]
          cases hr : regionOf s.cfg addr with
          | reg r =>
            rw [hr] at he
            cases r <;> cases he
            · exact .inr (.inr (.inl ⟨rfl, w, rfl⟩))
            · exact .inr (.inr (.inr (.inl ⟨rfl, w, by rw [← hp]⟩)))
            · exact .inr (.inr (.inr (.inr (.inl ⟨rfl, w, by rw [← hp]⟩))))
          | buffer =>
            rw [hr] at he
            cases he
            have hs : size = .four := by
              simp only [wholeWord, Bool.and_eq_true, decide_eq_true_eq] at hw
              exact hw.1
            subst hs
            exact .inr (.inr (.inr (.inr (.inr ⟨rfl, addr, w, rfl, (wholeWord_four addr).mp hw,
              isBufferByte_of_region hr, by rw [← hp]⟩))))
          | reserved => rw [hr] at he; cases he

/-- Issuing a command does not depend on what the host does next, and keeps it. -/
theorem issueCommand_host (w : Word) (s : State) (ops : List HostOp) :
    issueCommand w { s with host := ops } = { issueCommand w s with host := ops } := by
  have hc : ∀ i, acceptCheck i { s with host := ops } = acceptCheck i s := fun i => by cases i <;> rfl
  unfold issueCommand
  cases decode w with
  | error e => rfl
  | ok i =>
    simp only [hc]
    cases acceptCheck i s <;> rfl

theorem writeEffect_host (region : Region) (addr : Offset) (w : Word) (s : State) (ops : List HostOp) :
    writeEffect region addr w { s with host := ops }
      = (writeEffect region addr w s).map fun t => { t with host := ops } := by
  cases region with
  | reg r => cases r <;> first | rfl | exact congrArg some (issueCommand_host w s ops)
  | buffer => rfl
  | reserved => rfl

/-- A transaction does not depend on what the host does next, and keeps it. -/
theorem access_host (x : Transaction) (s : State) (ops : List HostOp) :
    access x { s with host := ops } = { access x s with host := ops } := by
  cases x with
  | read addr size =>
    change hostRead addr size { s with host := ops } = { hostRead addr size s with host := ops }
    cases hw : wholeWord addr size with
    | false => rw [hostRead_bad _ hw, hostRead_bad _ hw]; rfl
    | true =>
      cases hr : regionOf s.cfg addr with
      | reg r =>
        rw [hostRead_reg (s := s) hw hr, hostRead_reg (s := { s with host := ops }) hw hr]
        cases r <;> rfl
      | buffer => rw [hostRead_buffer (s := s) hw hr, hostRead_buffer (s := { s with host := ops }) hw hr]; rfl
      | reserved =>
        rw [hostRead_reserved (s := s) hw hr, hostRead_reserved (s := { s with host := ops }) hw hr]; rfl
  | write addr size w =>
    change hostWrite addr size w { s with host := ops } = { hostWrite addr size w s with host := ops }
    cases hw : wholeWord addr size with
    | false => rw [hostWrite_bad _ _ hw, hostWrite_bad _ _ hw]; rfl
    | true =>
      have hm := writeEffect_host (regionOf s.cfg addr) addr w s ops
      cases he : writeEffect (regionOf s.cfg addr) addr w s with
      | none =>
        rw [he] at hm
        rw [hostWrite_none he, hostWrite_none (s := { s with host := ops }) hm]; rfl
      | some t =>
        rw [he] at hm
        cases hb : s.busy with
        | true => rw [hostWrite_busy hw he hb, hostWrite_busy (s := { s with host := ops }) hw hm hb]; rfl
        | false => rw [hostWrite_ok hw he hb, hostWrite_ok (s := { s with host := ops }) hw hm hb]; rfl

/-- A transaction keeps what the host does next. -/
theorem access_host_eq (x : Transaction) (s : State) : (access x s).host = s.host := by
  have h := congrArg State.host (access_host x s s.host)
  exact h

/-- The host's step is one transaction (the next one, or the read of a poll) and what is left of its
operations, or nothing when it has none. -/
theorem hostStep_cases (s : State) :
    (s.host = [] ∧ hostStep s = s) ∨
    (∃ x rest, s.host = .tx x :: rest ∧ hostStep s = { access x s with host := rest }) ∨
    (∃ addr mask value rest, s.host = .poll addr mask value :: rest ∧
      hostStep s = { access (.read addr .four) s with
        host := if pollSatisfied mask value (access (.read addr .four) s).answer then rest else s.host }) := by
  unfold hostStep
  cases hh : s.host with
  | nil => exact .inl ⟨rfl, rfl⟩
  | cons op rest =>
    cases op with
    | tx x => exact .inr (.inl ⟨x, rest, rfl, access_host x s rest⟩)
    | poll addr mask value =>
      refine .inr (.inr ⟨addr, mask, value, rest, rfl, ?_⟩)
      have hk := access_host_eq (.read addr .four) s
      rw [hh] at hk
      simp only
      split
      · rfl
      · rw [← hk]

end Sys2Proof.Machine
end

