-- ==== Sys2Proof/Laws/Commands.lean ====
section
/-! SUPPORT. What each command can do: every command answers a next state, WUPDATE in one of two
forms, and what no command touches. -/

namespace Sys2Proof.Machine

/-- The preconditions of R161 as one proposition. -/
theorem updateCheck_eq_none (m n : Nat) (s : State) :
    updateCheck m n s = none ↔
      (m ≤ s.cfg.bufDepth ∧ n ≤ s.cfg.bufDepth ∧ m ≤ s.length.toNat ∧ m ≤ n ∧
        s.length.toNat + (n - m) ≤ 2 ^ 64 - 1) := by
  unfold updateCheck
  split
  · simp; omega
  · split
    · simp; omega
    · split
      · simp; omega
      · split <;> simp <;> omega

/-- A WUPDATE raises the error its check names, or updates the window. -/
theorem execWupdate_cases (m n : Nat) (s : State) :
    (∃ e, updateCheck m n s = some e ∧
      execWupdate m n s = .next (raiseError e (encode (.wupdate m n)) s)) ∨
    (updateCheck m n s = none ∧ execWupdate m n s = .next (updateWindow m n s)) := by
  unfold execWupdate
  cases updateCheck m n s with
  | none => exact .inr ⟨rfl, rfl⟩
  | some e => exact .inl ⟨e, rfl, rfl⟩

/-- An update changes the window, the cache and the fault record, and nothing else (R162). -/
theorem updateWindow_frame (m n : Nat) (s : State) :
    updateWindow m n s =
      { s with
        core := (updateWindow m n s).core, zc := (updateWindow m n s).zc, oc := (updateWindow m n s).oc
        length := (updateWindow m n s).length, xpc := (updateWindow m n s).xpc
        xpcN := (updateWindow m n s).xpcN, faults := (updateWindow m n s).faults } := by
  unfold updateWindow
  by_cases h : n - m = 0 <;> simp only [h, if_true, if_false] <;> rfl

@[simp] theorem updateWindow_core (m n : Nat) (s : State) :
    (updateWindow m n s).core = updatedCore m n s := rfl

/-- The faults of an update are the unwritten bytes it uses (R34, R60). -/
@[simp] theorem updateWindow_faults (m n : Nat) (s : State) :
    (updateWindow m n s).faults
      = s.faults ++ ((usedOffsets m n).filter s.unwritten).map Fault.unwrittenByte := by
  unfold updateWindow
  by_cases h : n - m = 0 <;> simp only [h, if_true, if_false] <;> rfl

/-- With no surplus the window and cache registers other than CORE stay (R166). -/
theorem updateWindow_hold (m n : Nat) (s : State) (h : n - m = 0) :
    updateWindow m n s = { s.recordUnwritten (usedOffsets m n) with core := updatedCore m n s } := by
  simp only [updateWindow, h, if_true]

/-- With a surplus of k bytes the corrections are rescaled by the cached power (R162, R170). -/
theorem updateWindow_grow (m n : Nat) (s : State) (h : n - m ≠ 0) :
    updateWindow m n s =
      { s.recordUnwritten (usedOffsets m n) with
        core := updatedCore m n s
        zc := ~~~(mul32 s.cfg.polyRev (~~~s.zc) (cachedPower s (n - m)))
        oc := mul32 s.cfg.polyRev (if s.length = 0#64 then 0x00000080#32 else s.oc) (cachedPower s (n - m))
        length := s.length + BitVec.ofNat 64 (n - m)
        xpc := cachedPower s (n - m)
        xpcN := n - m } := by
  simp only [updateWindow, h, if_false]
  rfl

/-- Every command completes: exec answers a next state. -/
theorem exec_next (i : Instr) (s : State) : ∃ t, exec i s = .next t := by
  cases i with
  | wupdate m n =>
    rcases execWupdate_cases m n s with ⟨e, _, h⟩ | ⟨_, h⟩
    · exact ⟨_, h⟩
    · exact ⟨_, h⟩
  | _ => exact ⟨_, rfl⟩

/-- No command touches the configuration, the operands, the buffers, PEND or the host's side, and the
fault record only grows. -/
theorem exec_frame {i : Instr} {s t : State} (h : exec i s = .next t) :
    t.cfg = s.cfg ∧ t.opa = s.opa ∧ t.opb = s.opb ∧ t.mem = s.mem ∧ t.pend = s.pend ∧ t.host = s.host ∧
      t.sched = s.sched ∧ t.answer = s.answer ∧ t.resets = s.resets ∧ ∃ more, t.faults = s.faults ++ more := by
  cases i with
  | wupdate m n =>
    rcases execWupdate_cases m n s with ⟨e, _, he⟩ | ⟨_, he⟩
    · rw [show exec (.wupdate m n) s = execWupdate m n s from rfl, he] at h
      cases h
      exact ⟨rfl, rfl, rfl, rfl, rfl, rfl, rfl, rfl, rfl, _, rfl⟩
    · rw [show exec (.wupdate m n) s = execWupdate m n s from rfl, he] at h
      cases h
      have hf := updateWindow_frame m n s
      refine ⟨?_, ?_, ?_, ?_, ?_, ?_, ?_, ?_, ?_, _, updateWindow_faults m n s⟩ <;> rw [hf]
  | _ => cases h; exact ⟨rfl, rfl, rfl, rfl, rfl, rfl, rfl, rfl, rfl, [], (List.append_nil _).symm⟩

/-- A command other than WUPDATE and CLRERR leaves the error fields, and so does a WUPDATE whose checks
pass (60_exceptions.md R200). -/
theorem exec_error_fields {i : Instr} {s t : State} (h : exec i s = .next t) (hi : i ≠ .clrerr)
    (hc : acceptCheck i s = none) : t.err = s.err ∧ t.errcode = s.errcode ∧ t.errinfo = s.errinfo := by
  cases i with
  | wupdate m n =>
    rcases execWupdate_cases m n s with ⟨e, hn, _⟩ | ⟨_, he⟩
    · rw [show acceptCheck (.wupdate m n) s = updateCheck m n s from rfl, hn] at hc
      cases hc
    · rw [show exec (.wupdate m n) s = execWupdate m n s from rfl, he] at h
      cases h
      refine ⟨?_, ?_, ?_⟩ <;> rw [updateWindow_frame m n s]
  | clrerr => exact absurd rfl hi
  | _ => cases h; exact ⟨rfl, rfl, rfl⟩

end Sys2Proof.Machine
end

