-- ==== Sys2Proof/Laws/Encoding.lean ====
section
/-! SUPPORT. The fields of a command word (30_encoding.md R80): a word is its fields, and the word of a
WUPDATE is made of its counts. -/

namespace Sys2Proof

/-- A word is RSV, the operand bits and OPC (R80). -/
theorem word_fields (w : Word) : w = fieldRsv w ++ w.extractLsb' 8 22 ++ fieldOpc w := by
  apply BitVec.eq_of_getLsbD_eq
  intro i hi
  simp only [fieldRsv, fieldOpc, BitVec.getLsbD_append, BitVec.getLsbD_extractLsb']
  by_cases h : i < 8
  · simp [h]
  · by_cases h2 : i - 8 < 22
    · simp [h, h2]; congr 1; omega
    · simp only [h, h2]
      have : i - 8 - 22 < 2 := by omega
      simp [this]; congr 1; omega

/-- The operand bits are NNEW and NOLD (R80). -/
theorem operand_fields (w : Word) : w.extractLsb' 8 22 = fieldNnew w ++ fieldNold w := by
  apply BitVec.eq_of_getLsbD_eq
  intro i hi
  simp only [fieldNnew, fieldNold, BitVec.getLsbD_append, BitVec.getLsbD_extractLsb']
  by_cases h : i < 11
  · simp [h, hi]
  · have : i - 11 < 11 := by omega
    simp [h, hi, this]; congr 1; omega

/-- The word of a WUPDATE, field by field (R83). -/
theorem encode_wupdate_fields (m n : Nat) (hm : m < 2048) (hn : n < 2048) :
    encode (.wupdate m n) = 0#2 ++ (BitVec.ofNat 11 n ++ BitVec.ofNat 11 m) ++ 0x21#8 := by
  have hm' : ∀ j, 11 ≤ j → m.testBit j = false := fun j hj =>
    Nat.testBit_lt_two_pow (lt_of_lt_of_le hm (Nat.pow_le_pow_right (n := 2) (by omega) hj))
  have hn' : ∀ j, 11 ≤ j → n.testBit j = false := fun j hj =>
    Nat.testBit_lt_two_pow (lt_of_lt_of_le hn (Nat.pow_le_pow_right (n := 2) (by omega) hj))
  apply BitVec.eq_of_getLsbD_eq
  intro i hi
  simp only [encode, Instr.opcode, Instr.operandBits, BitVec.getLsbD_append, BitVec.getLsbD_or,
    BitVec.getLsbD_shiftLeft, BitVec.getLsbD_setWidth, BitVec.getLsbD_ofNat]
  interval_cases i <;> simp [hm', hn']

/-- What each field of a word made of four fields is (R80). -/
theorem fields_append (a : BitVec 2) (b c : BitVec 11) (d : Byte) :
    fieldRsv (a ++ (b ++ c) ++ d) = a ∧ fieldNnew (a ++ (b ++ c) ++ d) = b ∧
    fieldNold (a ++ (b ++ c) ++ d) = c ∧ fieldOpc (a ++ (b ++ c) ++ d) = d := by
  refine ⟨?_, ?_, ?_, ?_⟩ <;> apply BitVec.eq_of_getLsbD_eq <;> intro i hi <;>
    simp only [fieldRsv, fieldNnew, fieldNold, fieldOpc, BitVec.getLsbD_append, BitVec.getLsbD_extractLsb'] <;>
    interval_cases i <;> simp

end Sys2Proof
end

