-- ==== Sys2Proof/Laws/PerInstr.lean ====
section
/-! SUPPORT. The per-instruction family Opcode: of every well-formed command, what the fields of its word
are (30_encoding.md R80, R82, R83). -/

namespace Sys2Proof.Laws.Opcode

/-- The word of a well-formed command has the command's opcode in OPC, 0 in RSV, and in NOLD and NNEW the
command's counts, which are 0 for every command but WUPDATE. -/
def Statement (i : Instr) : Prop :=
  i.wellFormed = true →
    fieldOpc (encode i) = i.opcode ∧ fieldRsv (encode i) = 0#2 ∧
      match i with
      | .nop => (encode i).extractLsb' 8 22 = 0#22
      | .clrerr => (encode i).extractLsb' 8 22 = 0#22
      | .bstep => (encode i).extractLsb' 8 22 = 0#22
      | .mul8 => (encode i).extractLsb' 8 22 = 0#22
      | .mul32 => (encode i).extractLsb' 8 22 = 0#22
      | .wreset => (encode i).extractLsb' 8 22 = 0#22
      | .wupdate nold nnew => (fieldNold (encode i)).toNat = nold ∧ (fieldNnew (encode i)).toNat = nnew

theorem nop : Statement .nop := fun _ => by decide

theorem clrerr : Statement .clrerr := fun _ => by decide

theorem bstep : Statement .bstep := fun _ => by decide

theorem mul8 : Statement .mul8 := fun _ => by decide

theorem mul32 : Statement .mul32 := fun _ => by decide

theorem wreset : Statement .wreset := fun _ => by decide

theorem wupdate (nold nnew : Nat) : Statement (.wupdate nold nnew) := by
  intro h
  simp only [Instr.wellFormed, countFits, Bool.and_eq_true, decide_eq_true_eq] at h
  obtain ⟨h1, h2, h3, h4⟩ := fields_append 0#2 (BitVec.ofNat 11 nnew) (BitVec.ofNat 11 nold) 0x21#8
  rw [encode_wupdate_fields nold nnew h.1 h.2]
  refine ⟨h4, h1, ?_, ?_⟩
  · rw [h3, BitVec.toNat_ofNat]
    exact Nat.mod_eq_of_lt h.1
  · rw [h2, BitVec.toNat_ofNat]
    exact Nat.mod_eq_of_lt h.2

end Sys2Proof.Laws.Opcode
end

