-- ==== Sys2Proof/Laws/Poly.lean ====
section
/-! SUPPORT. The polynomial meaning of the byte step and the multipliers: the residue of a word in
GF(2)[x]/G, in which tableShift multiplies by x, and Step, Mul8, Mul32 and XPow are ring operations
(00_scope.md R10, R11, 40_byte_step.md R102, 41_polymul.md R123 to R125). -/

namespace Sys2Proof.Machine
open Polynomial

/-- The polynomial of the first `k` bits of `f`, bit 0 the highest power. -/
noncomputable def bitsPoly (k : ℕ) (f : ℕ → Bool) : (ZMod 2)[X] :=
  ∑ m ∈ Finset.range k, if f m then X ^ (k - 1 - m) else 0

theorem rho32_eq_bitsPoly (w : Word) : rho32 w = bitsPoly 32 w.getLsbD := rfl
theorem rho8_eq_bitsPoly (b : Byte) : rho8 b = bitsPoly 8 b.getLsbD := rfl

theorem bitsPoly_congr {k : ℕ} {f g : ℕ → Bool} (h : ∀ m < k, f m = g m) :
    bitsPoly k f = bitsPoly k g := by
  unfold bitsPoly
  exact Finset.sum_congr rfl fun m hm => by rw [h m (Finset.mem_range.mp hm)]

theorem zmod2_poly_add_self (P : (ZMod 2)[X]) : P + P = 0 := CharTwo.add_self_eq_zero P

theorem bitsPoly_xor (k : ℕ) (f g : ℕ → Bool) :
    bitsPoly k (fun m => f m ^^ g m) = bitsPoly k f + bitsPoly k g := by
  unfold bitsPoly
  rw [← Finset.sum_add_distrib]
  refine Finset.sum_congr rfl fun m _ => ?_
  by_cases hf : f m = true <;> by_cases hg : g m = true <;> simp [hf, hg, zmod2_poly_add_self]

theorem bitsPoly_split (j k : ℕ) (f : ℕ → Bool) :
    bitsPoly (j + k) f = X ^ k * bitsPoly j f + bitsPoly k (fun m => f (j + m)) := by
  unfold bitsPoly
  rw [Finset.sum_range_add, Finset.mul_sum]
  congr 1
  · refine Finset.sum_congr rfl fun m hm => ?_
    have := Finset.mem_range.mp hm
    by_cases h : f m = true
    · simp only [h, if_true, ← pow_add]; congr 1; omega
    · simp [h]
  · refine Finset.sum_congr rfl fun m hm => ?_
    have := Finset.mem_range.mp hm
    congr 2; omega

theorem bitsPoly_false (k : ℕ) : bitsPoly k (fun _ => false) = 0 := by simp [bitsPoly]

theorem bitsPoly_shift (s j r : ℕ) (f : ℕ → Bool) (hf : ∀ m, j ≤ m → f m = false) :
    bitsPoly (s + j + r) (fun m => decide (s ≤ m) && f (m - s)) = X ^ r * bitsPoly j f := by
  rw [add_assoc, bitsPoly_split, bitsPoly_split]
  have h1 : bitsPoly s (fun m => decide (s ≤ m) && f (m - s)) = 0 := by
    rw [← bitsPoly_false s]; exact bitsPoly_congr fun m hm => by simp; omega
  have h2 : bitsPoly r (fun m => decide (s ≤ s + (j + m)) && f (s + (j + m) - s)) = 0 := by
    rw [← bitsPoly_false r]; exact bitsPoly_congr fun m hm => by
      have : s + (j+m) - s = j + m := by omega
      simp [this, hf (j+m) (by omega)]
  rw [h1, h2, mul_zero, zero_add, add_zero]
  congr 1
  exact bitsPoly_congr fun m hm => by simp

theorem rho32_xor (a b : Word) : rho32 (a ^^^ b) = rho32 a + rho32 b := by
  rw [rho32_eq_bitsPoly, rho32_eq_bitsPoly, rho32_eq_bitsPoly, ← bitsPoly_xor]
  exact bitsPoly_congr fun m _ => by simp

theorem rho8_xor (a b : Byte) : rho8 (a ^^^ b) = rho8 a + rho8 b := by
  rw [rho8_eq_bitsPoly, rho8_eq_bitsPoly, rho8_eq_bitsPoly, ← bitsPoly_xor]
  exact bitsPoly_congr fun m _ => by simp

theorem bitsPoly_coeff (k : ℕ) (f : ℕ → Bool) (m : ℕ) (hm : m < k) :
    (bitsPoly k f).coeff (k - 1 - m) = if f m then 1 else 0 := by
  unfold bitsPoly
  rw [Polynomial.finsetSum_coeff, Finset.sum_eq_single m]
  · split <;> simp
  · intro b hb hne
    have := Finset.mem_range.mp hb
    split
    · rw [coeff_X_pow, if_neg (by omega)]
    · simp
  · intro h; exact absurd (Finset.mem_range.mpr hm) h

theorem rho32_injective {a b : Word} (h : rho32 a = rho32 b) : a = b := by
  apply BitVec.eq_of_getLsbD_eq
  intro i hi
  have ha := bitsPoly_coeff 32 a.getLsbD i hi
  have hb := bitsPoly_coeff 32 b.getLsbD i hi
  rw [← rho32_eq_bitsPoly] at ha hb
  rw [h, hb] at ha
  revert ha
  cases a.getLsbD i <;> cases b.getLsbD i <;> simp

theorem bitsPoly_degree_lt (k : ℕ) (f : ℕ → Bool) : (bitsPoly k f).degree < k := by
  unfold bitsPoly
  refine (Polynomial.degree_sum_le _ _).trans_lt ?_
  refine (Finset.sup_lt_iff (WithBot.bot_lt_coe k)).mpr fun m hm => ?_
  have := Finset.mem_range.mp hm
  split
  · rw [degree_X_pow]; exact WithBot.coe_lt_coe.mpr (by simp only [Nat.cast_id]; omega)
  · simp

theorem rho32_degree_lt (w : Word) : (rho32 w).degree < 32 := bitsPoly_degree_lt 32 _

theorem generator_monic (p : Word) : (generator p).Monic :=
  monic_X_pow_add (rho32_degree_lt p)

theorem generator_degree (p : Word) : (generator p).degree = 32 := by
  unfold generator
  rw [degree_add_eq_left_of_degree_lt] <;> rw [degree_X_pow]
  · rfl
  · exact rho32_degree_lt p

/-- The class of a word in GF(2)[x]/G. -/
noncomputable def residue (p w : Word) : AdjoinRoot (generator p) := AdjoinRoot.mk (generator p) (rho32 w)

/-- The class of x. -/
noncomputable abbrev residueX (p : Word) : AdjoinRoot (generator p) := AdjoinRoot.root (generator p)

/-- From the quotient ring back to a remainder. -/
theorem rho32_eq_modByMonic_of_mk {p w : Word} {P : (ZMod 2)[X]}
    (h : residue p w = AdjoinRoot.mk (generator p) P) : rho32 w = P %ₘ generator p := by
  have hd : generator p ∣ P - rho32 w := AdjoinRoot.mk_eq_mk.mp h.symm
  rw [modByMonic_eq_of_dvd_sub (generator_monic p) hd, (modByMonic_eq_self_iff (generator_monic p)).mpr]
  rw [generator_degree]; exact rho32_degree_lt w

/-- A word is fixed by its class. -/
theorem residue_injective {p a b : Word} (h : residue p a = residue p b) : a = b := by
  have := rho32_eq_modByMonic_of_mk h
  rw [(modByMonic_eq_self_iff (generator_monic p)).mpr] at this
  · exact rho32_injective this
  · rw [generator_degree]; exact rho32_degree_lt b

/-- XOR is addition in the quotient ring. -/
theorem residue_xor (p a b : Word) : residue p (a ^^^ b) = residue p a + residue p b := by
  simp [residue, rho32_xor]

theorem mk_X (p : Word) : AdjoinRoot.mk (generator p) X = residueX p := rfl

/-- x^32 is POLY_REV (00_scope.md R11). -/
theorem residueX_pow_32 (p : Word) : residueX p ^ 32 = residue p p := by
  rw [← mk_X, ← map_pow, residue]
  refine AdjoinRoot.mk_eq_mk.mpr ?_
  rw [CharTwo.sub_eq_add]
  exact dvd_refl _

theorem bitsPoly_one (f : ℕ → Bool) : bitsPoly 1 f = if f 0 then 1 else 0 := by
  simp only [bitsPoly, Finset.sum_range_one, Nat.sub_self, pow_zero]

theorem X_mul_bitsPoly (k : ℕ) (f : ℕ → Bool) (hf : f k = false) :
    X * bitsPoly k f = (if f 0 then X ^ k else 0) + bitsPoly k (fun m => f (1 + m)) := by
  have h := bitsPoly_split 1 k f
  rw [add_comm 1 k, bitsPoly_split k 1 f, bitsPoly_one, bitsPoly_one, pow_one] at h
  simp only [hf, Bool.false_eq_true, if_false, add_zero] at h
  rw [h]
  congr 1
  split <;> simp

theorem X_mul_rho32 (c : Word) :
    X * rho32 c = (if c.getLsbD 0 then X ^ 32 else 0) + rho32 (c >>> 1) := by
  have h := X_mul_bitsPoly 32 c.getLsbD (BitVec.getLsbD_of_ge _ _ (le_refl _))
  rw [← rho32_eq_bitsPoly] at h
  rw [h, rho32_eq_bitsPoly (c >>> 1)]
  congr 1

/-- One table shift is multiplication by x (40_byte_step.md R100). -/
theorem residue_tableShift (p c : Word) : residue p (tableShift p c) = residueX p * residue p c := by
  have h : residueX p * residue p c =
      (if c.getLsbD 0 then residueX p ^ 32 else 0) + residue p (c >>> 1) := by
    rw [residue, residue, ← mk_X, ← map_mul, X_mul_rho32, map_add]
    split <;> simp
  rw [h, tableShift]
  split
  · rw [residue_xor, residueX_pow_32, add_comm]
  · rw [zero_add]

theorem residue_tableShift_iterate (p c : Word) (n : ℕ) :
    residue p ((tableShift p)^[n] c) = residueX p ^ n * residue p c := by
  induction n generalizing c with
  | zero => simp
  | succ n ih => rw [Function.iterate_succ_apply, ih, residue_tableShift, pow_succ, mul_assoc]

theorem rho32_setWidth_byte (b : Byte) : rho32 (b.setWidth 32) = X ^ 24 * rho8 b := by
  rw [rho32_eq_bitsPoly, rho8_eq_bitsPoly]
  have h := bitsPoly_shift 0 8 24 b.getLsbD (fun m hm => BitVec.getLsbD_of_ge _ _ hm)
  rw [← h]
  exact bitsPoly_congr fun m hm => by simp [hm]

/-- The class of a byte. -/
noncomputable def residue8 (p : Word) (b : Byte) : AdjoinRoot (generator p) := AdjoinRoot.mk (generator p) (rho8 b)

theorem residue_setWidth_byte (p : Word) (b : Byte) :
    residue p (b.setWidth 32) = residueX p ^ 24 * residue8 p b := by
  rw [residue, rho32_setWidth_byte, map_mul, map_pow, mk_X, residue8]

/-- A table entry is x^32 times its byte (40_byte_step.md R102). -/
theorem residue_tableEntry (p : Word) (b : Byte) :
    residue p (tableEntry p b) = residueX p ^ 32 * residue8 p b := by
  rw [tableEntry, residue_tableShift_iterate, residue_setWidth_byte, ← mul_assoc, ← pow_add]

theorem rho32_split_byte (v : Word) :
    rho32 v = X ^ 24 * rho8 (v.extractLsb' 0 8) + bitsPoly 24 (fun m => v.getLsbD (8 + m)) := by
  rw [rho32_eq_bitsPoly, bitsPoly_split 8 24]
  congr 2
  exact bitsPoly_congr fun m hm => by simp [hm]

/-- Step in the quotient ring (40_byte_step.md R102). -/
theorem residue_crcStep (p acc : Word) (b : Byte) :
    residue p (crcStep p acc b) = residueX p ^ 8 * (residue p acc + residueX p ^ 24 * residue8 p b) := by
  have hs : rho32 (acc >>> 8) = X ^ 8 * bitsPoly 24 (fun m => acc.getLsbD (8 + m)) := by
    rw [rho32_eq_bitsPoly, ← bitsPoly_shift 0 24 8]
    · exact bitsPoly_congr fun m _ => by simp
    · intro m hm; exact BitVec.getLsbD_of_ge _ _ (by omega)
  have hx : residue8 p (acc.extractLsb' 0 8 ^^^ b) = residue8 p (acc.extractLsb' 0 8) + residue8 p b := by
    rw [residue8, rho8_xor, map_add]; rfl
  rw [crcStep, residue_xor, residue_tableEntry, hx]
  have hr : residue p acc = residueX p ^ 24 * residue8 p (acc.extractLsb' 0 8)
      + AdjoinRoot.mk (generator p) (bitsPoly 24 (fun m => acc.getLsbD (8 + m))) := by
    rw [residue, rho32_split_byte, map_add, map_mul, map_pow, mk_X]; rfl
  have hr2 : residue p (acc >>> 8) = residueX p ^ 8 *
      AdjoinRoot.mk (generator p) (bitsPoly 24 (fun m => acc.getLsbD (8 + m))) := by
    rw [residue, hs, map_mul, map_pow, mk_X]
  rw [hr, hr2]
  ring

/-! ### Mul8 and Mul32 -/

/-- XOR of 64-bit intermediates is addition of their polynomials. -/
theorem bitsPoly_xor64 (k : ℕ) (a b : Dword) :
    bitsPoly k (a ^^^ b).getLsbD = bitsPoly k a.getLsbD + bitsPoly k b.getLsbD := by
  rw [← bitsPoly_xor]; exact bitsPoly_congr fun m _ => by simp

theorem bitsPoly_word_shift (w : Word) (s r : ℕ) (hr : s + 32 + r ≤ 64) :
    bitsPoly (s + 32 + r) (w.setWidth 64 <<< s).getLsbD = X ^ r * rho32 w := by
  rw [rho32_eq_bitsPoly, ← bitsPoly_shift s 32 r w.getLsbD (fun m hm => BitVec.getLsbD_of_ge _ _ hm)]
  refine bitsPoly_congr fun m hm => ?_
  by_cases hs : s ≤ m
  · simp [hs, show m < 64 by omega]
  · simp [hs]

theorem mul8Product_term (c : Word) (v : Byte) (x : Dword) (i : ℕ) (hi : i < 8) :
    bitsPoly 40 ((if v.getLsbD i then x ^^^ (c.setWidth 64 <<< i) else x) <<< 1).getLsbD
      = bitsPoly 40 (x <<< 1).getLsbD + (if v.getLsbD i then X ^ (7 - i) else 0) * rho32 c := by
  by_cases hv : v.getLsbD i = true
  · have h := bitsPoly_word_shift c (i + 1) (7 - i) (by omega)
    rw [show i + 1 + 32 + (7 - i) = 40 by omega, BitVec.shiftLeft_add] at h
    rw [if_pos hv, if_pos hv, BitVec.shiftLeft_xor_distrib, bitsPoly_xor64, h]
  · rw [if_neg hv, if_neg hv, zero_mul, add_zero]

theorem mul8Product_foldl (c : Word) (v : Byte) (l : List ℕ) (x : Dword) (hl : ∀ i ∈ l, i < 8) :
    bitsPoly 40 ((l.foldl (fun x i => if v.getLsbD i then x ^^^ (c.setWidth 64 <<< i) else x) x) <<< 1).getLsbD
      = bitsPoly 40 (x <<< 1).getLsbD
        + (l.map fun i => if v.getLsbD i then (X : (ZMod 2)[X]) ^ (7 - i) else 0).sum * rho32 c := by
  induction l generalizing x with
  | nil => rw [List.foldl_nil, List.map_nil, List.sum_nil, zero_mul, add_zero]
  | cons i l ih =>
    rw [List.foldl_cons, ih _ (fun j hj => hl j (List.mem_cons_of_mem _ hj)),
      mul8Product_term c v x i (hl i List.mem_cons_self), List.map_cons, List.sum_cons, add_mul, add_assoc]

theorem mul8Product_poly (c : Word) (v : Byte) :
    bitsPoly 40 (mul8Product c v <<< 1).getLsbD = rho8 v * rho32 c := by
  have h0 : bitsPoly 40 ((0#64 : Dword) <<< 1).getLsbD = 0 := by
    rw [← bitsPoly_false 40]; exact bitsPoly_congr fun m _ => by simp
  have hs : ((List.range 8).map fun i => if v.getLsbD i then (X : (ZMod 2)[X]) ^ (7 - i) else 0).sum = rho8 v :=
    rfl
  rw [mul8Product, mul8Product_foldl c v _ _ (fun i hi => List.mem_range.mp hi), h0, zero_add, hs]

/-- Mul8 in the quotient ring (41_polymul.md R123). -/
theorem residue_mul8 (p c : Word) (v : Byte) : residue p (mul8 p c v) = residue p c * residue8 p v := by
  have key : ∀ y : Dword,
      residue p (((tableEntry p (y.extractLsb' 0 8)).setWidth 64 ^^^ (y >>> 8)).setWidth 32)
        = AdjoinRoot.mk (generator p) (bitsPoly 40 y.getLsbD) := by
    intro y
    have hsplit := bitsPoly_split 8 32 y.getLsbD
    have hlo : bitsPoly 8 y.getLsbD = rho8 (y.extractLsb' 0 8) := by
      rw [rho8_eq_bitsPoly]; exact bitsPoly_congr fun m hm => by simp [hm]
    have hhi : bitsPoly 32 (fun m => y.getLsbD (8 + m)) = rho32 ((y >>> 8).setWidth 32) := by
      rw [rho32_eq_bitsPoly]; exact bitsPoly_congr fun m hm => by simp [hm]
    rw [show (40 : ℕ) = 8 + 32 by rfl, hsplit, hlo, hhi, BitVec.setWidth_xor, residue_xor]
    have : ((tableEntry p (y.extractLsb' 0 8)).setWidth 64).setWidth 32 = tableEntry p (y.extractLsb' 0 8) := by
      ext i hi; simp
    rw [this, residue_tableEntry, map_add, map_mul, map_pow, mk_X, residue8, residue]
  rw [mul8, key, mul8Product_poly, map_mul, mul_comm]; rfl

theorem reduceByte_poly (p : Word) (k : ℕ) (acc : Dword) (hk : 32 ≤ k) (hk2 : k ≤ 56) :
    AdjoinRoot.mk (generator p) (bitsPoly k (reduceByte p acc).getLsbD)
      = AdjoinRoot.mk (generator p) (bitsPoly (8 + k) acc.getLsbD) := by
  have hlo : bitsPoly 8 acc.getLsbD = rho8 (acc.extractLsb' 0 8) := by
    rw [rho8_eq_bitsPoly]; exact bitsPoly_congr fun m hm => by simp [hm]
  have hhi : bitsPoly k (fun m => acc.getLsbD (8 + m)) = bitsPoly k (acc >>> 8).getLsbD :=
    bitsPoly_congr fun m hm => by simp
  have ht := bitsPoly_word_shift (tableEntry p (acc.extractLsb' 0 8)) 0 (k - 32) (by omega)
  rw [show 0 + 32 + (k - 32) = k by omega, BitVec.shiftLeft_zero] at ht
  have hr := residue_tableEntry p (acc.extractLsb' 0 8)
  rw [residue] at hr
  rw [reduceByte, bitsPoly_xor64, bitsPoly_split, hlo, hhi, ht, map_add, map_add, map_mul, map_mul, hr, map_pow,
    map_pow, mk_X, ← mul_assoc, ← pow_add, show k - 32 + 32 = k by omega, add_comm, residue8]

theorem mul32Product_poly (p a b : Word) :
    AdjoinRoot.mk (generator p) (bitsPoly 56 (mul32Product p a b).getLsbD) = residue p a * residue p b := by
  have hz : bitsPoly 56 (0#64 : Dword).getLsbD = 0 := by
    rw [← bitsPoly_false 56]; exact bitsPoly_congr fun m _ => by simp
  have hb : residue p b = residueX p ^ 24 * residue8 p (byteOf b 0) + residueX p ^ 16 * residue8 p (byteOf b 1)
      + residueX p ^ 8 * residue8 p (byteOf b 2) + residue8 p (byteOf b 3) := by
    have hby : ∀ j, bitsPoly 8 (fun m => b.getLsbD (8 * j + m)) = rho8 (byteOf b j) := fun j => by
      rw [rho8_eq_bitsPoly]; exact bitsPoly_congr fun m hm => by simp [byteOf, hm]
    have h0 := hby 0; have h1 := hby 1; have h2 := hby 2; have h3 := hby 3
    have s1 := bitsPoly_split 8 24 b.getLsbD
    have s2 := bitsPoly_split 8 16 (fun m => b.getLsbD (8 + m))
    have s3 := bitsPoly_split 8 8 (fun m => b.getLsbD (8 + (8 + m)))
    simp only [← add_assoc, Nat.reduceMul, Nat.reduceAdd, zero_add] at h0 h1 h2 h3 s1 s2 s3
    rw [residue, rho32_eq_bitsPoly, s1, s2, s3, h0, h1, h2, h3]
    simp only [map_add, map_mul, map_pow, mk_X, residue8, add_assoc]
  have hs : ∀ k, k < 4 → AdjoinRoot.mk (generator p)
      (bitsPoly 56 ((mul8 p a (byteOf b k)).setWidth 64 <<< (8 * k)).getLsbD)
        = residueX p ^ (24 - 8 * k) * (residue p a * residue8 p (byteOf b k)) := by
    intro k hk
    have h := bitsPoly_word_shift (mul8 p a (byteOf b k)) (8 * k) (24 - 8 * k) (by omega)
    rw [show 8 * k + 32 + (24 - 8 * k) = 56 by omega] at h
    have hm := residue_mul8 p a (byteOf b k)
    rw [residue] at hm
    rw [h, map_mul, map_pow, mk_X, hm]
  have hrange : List.range 4 = [0, 1, 2, 3] := by decide
  rw [mul32Product, hrange]
  simp only [List.foldl_cons, List.foldl_nil, bitsPoly_xor64, map_add, hz]
  rw [hs 0 (by omega), hs 1 (by omega), hs 2 (by omega), hs 3 (by omega), hb]
  simp only [map_zero, Nat.mul_zero, Nat.sub_zero, Nat.reduceMul, Nat.reduceSub, pow_zero]
  ring

/-- Mul32 in the quotient ring (41_polymul.md R124). -/
theorem residue_mul32 (p a b : Word) : residue p (mul32 p a b) = residue p a * residue p b := by
  have hfin : ∀ x : Dword, residue p (x.setWidth 32) = AdjoinRoot.mk (generator p) (bitsPoly 32 x.getLsbD) := by
    intro x
    have h : bitsPoly 32 (x.setWidth 32).getLsbD = bitsPoly 32 x.getLsbD :=
      bitsPoly_congr fun m hm => by simp [hm]
    rw [residue, rho32_eq_bitsPoly, h]
  rw [mul32, hfin]
  simp only [Function.iterate_succ, Function.iterate_zero, Function.comp, id]
  rw [reduceByte_poly p 32 _ (by omega) (by omega), reduceByte_poly p 40 _ (by omega) (by omega),
    reduceByte_poly p 48 _ (by omega) (by omega), mul32Product_poly]

theorem rho32_one : rho32 0x80000000#32 = 1 := by
  rw [show (0x80000000#32 : Word) = BitVec.twoPow 32 31 by decide, rho32]
  rw [Finset.sum_eq_single 31] <;> simp [BitVec.getLsbD_twoPow]
  omega

theorem residue_one (p : Word) : residue p 0x80000000#32 = 1 := by
  rw [residue, rho32_one, map_one]

theorem rho8_zero : rho8 0#8 = 0 := by
  rw [rho8_eq_bitsPoly, ← bitsPoly_false 8]; exact bitsPoly_congr fun m _ => by simp

theorem residue_crcStep_zero (p acc : Word) : residue p (crcStep p acc 0#8) = residueX p ^ 8 * residue p acc := by
  rw [residue_crcStep, residue8, rho8_zero, map_zero, mul_zero, add_zero]

/-- XPow(n) is x^(8n) (41_polymul.md R125). -/
theorem residue_xpow (p : Word) (n : ℕ) : residue p (xpow p n) = residueX p ^ (8 * n) := by
  induction n with
  | zero => rw [xpow, residue_one, Nat.mul_zero, pow_zero]
  | succ n ih => rw [xpow, residue_crcStep_zero, ih, ← pow_add]; congr 1; omega

theorem residue_zero (p : Word) : residue p 0#32 = 0 := by
  have h := residue_xor p 0#32 0#32
  simpa using h

theorem residue8_xor (p : Word) (a b : Byte) : residue8 p (a ^^^ b) = residue8 p a + residue8 p b := by
  simp [residue8, rho8_xor]

/-- The word with bit k alone stands for x^(31−k). -/
theorem rho32_twoPow (k : ℕ) (hk : k < 32) : rho32 (BitVec.twoPow 32 k) = X ^ (31 - k) := by
  rw [rho32, Finset.sum_eq_single k]
  · simp [hk]
  · intro b _ hne
    simp [BitVec.getLsbD_twoPow]
    omega
  · intro h
    exact absurd (Finset.mem_range.mpr hk) h

/-- A byte in the high place of a word stands for the byte's polynomial. -/
theorem rho32_high (v : Byte) : rho32 (v.setWidth 32 <<< 24) = rho8 v := by
  rw [rho32_eq_bitsPoly, rho8_eq_bitsPoly]
  have h := bitsPoly_shift 24 8 0 v.getLsbD (fun m hm => BitVec.getLsbD_of_ge _ _ hm)
  rw [pow_zero, one_mul] at h
  rw [← h]
  refine bitsPoly_congr fun m hm => ?_
  by_cases h24 : m < 24
  · simp [h24]
  · have : m < 32 := hm
    simp [this, h24]
    omega

/-- The message polynomial as a sum over a range of indices. -/
theorem messagePoly_range (l : List Byte) :
    messagePoly l = ∑ i ∈ Finset.range l.length, rho8 (l.getD i 0#8) * X ^ (8 * (l.length - 1 - i)) := by
  unfold messagePoly
  rw [Finset.sum_range]
  refine Finset.sum_congr rfl fun i _ => ?_
  simp

end Sys2Proof.Machine
end

