-- ==== Sys2Proof/Laws/Step.lean ====
section
/-! SUPPORT. Everything one step can do, said once: the agent that moves and what it makes of the
state. -/

namespace Sys2Proof.Machine

theorem step_host {s : State} (h : nextAgent s = .host) : step s = .next (hostStep (takeTurn s)) := by
  rw [step, h]

theorem step_engine {s : State} (h : nextAgent s = .engine) : step s = engineStep (takeTurn s) := by
  rw [step, h]

theorem step_reset {s : State} (h : nextAgent s = .reset) :
    step s = .next (hardwareReset (takeTurn s)) := by
  rw [step, h]

/-- One step: the host's, a hardware reset, or the engine's with nothing in flight, with a command it
completes, or with a word that is not legal. -/
theorem step_cases {s t : State} (h : step s = .next t) :
    (nextAgent s = .host ∧ t = hostStep (takeTurn s)) ∨
    (nextAgent s = .reset ∧ t = hardwareReset (takeTurn s)) ∨
    (nextAgent s = .engine ∧ s.pend = none ∧ t = takeTurn s) ∨
    (nextAgent s = .engine ∧ ∃ w i, s.pend = some w ∧ decode w = .ok i ∧
      exec i (complete (takeTurn s)) = .next t) ∨
    (nextAgent s = .engine ∧ ∃ w e, s.pend = some w ∧ decode w = .error e ∧
      t = raiseError .illegalCommand w (complete (takeTurn s))) := by
  cases ha : nextAgent s with
  | host => rw [step_host ha] at h; cases h; exact .inl ⟨rfl, rfl⟩
  | reset => rw [step_reset ha] at h; cases h; exact .inr (.inl ⟨rfl, rfl⟩)
  | engine =>
    rw [step_engine ha] at h
    unfold engineStep at h
    rw [takeTurn_pend] at h
    cases hp : s.pend with
    | none => rw [hp] at h; cases h; exact .inr (.inr (.inl ⟨rfl, rfl, rfl⟩))
    | some w =>
      rw [hp] at h
      cases hd : decode w with
      | ok i => simp only [hd] at h; exact .inr (.inr (.inr (.inl ⟨rfl, w, i, rfl, hd, h⟩)))
      | error e =>
        simp only [hd] at h
        cases h
        exact .inr (.inr (.inr (.inr ⟨rfl, w, e, rfl, hd, rfl⟩)))

end Sys2Proof.Machine
end

