-- ==== Sys2Proof/Tests/Slice0.lean ====
section
/-! SUPPORT. Tests with expected results from spec/ (each names its source), and for every statement with
hypotheses a witness: concrete states and operands that meet them together. -/

namespace Sys2Proof.Tests
open Sys2Proof Sys2Proof.Machine Sys2Proof.Claims

/-! ### Helpers -/

/-- The state a meaning answers; the reset state where it answers none. -/
def after (o : Host.Outcome State Fault Refusal) : State :=
  match o with
  | .next t => t
  | .fault _ => State.reset
  | .refused _ => State.reset

/-- Reset with OPA and OPB loaded. -/
def operands (a b : Word) : State := { State.reset with opa := a, opb := b }

/-- The window "123456789" of 95_test_vectors.md L1.8 step 1, with given buffer bytes. -/
def nineWindow (mem : Memory) : State :=
  { State.reset with
    length := 9#64, core := 0x2DFD2D88#32, zc := 0xE60914AE#32, oc := 0x6655004F#32
    xpc := 0x1EB014D8#32, xpcN := 9, mem := mem }

/-- The bytes of that window. -/
def nineBytes : List Byte := [0x31#8, 0x32#8, 0x33#8, 0x34#8, 0x35#8, 0x36#8, 0x37#8, 0x38#8, 0x39#8]

/-- "1" in OLDBUF and "AB" in NEWBUF. -/
def slideMem : Memory := [(0x400, 0x31#8), (0x401, 0x32#8), (0x800, 0x41#8), (0x801, 0x42#8)]

/-! ### WellFormed: ill-formed commands are refused (30_encoding.md R80, R83) -/

theorem test_wellFormed_nold_too_large : (Instr.wupdate 2048 0).wellFormed = false := by decide
theorem test_wellFormed_nnew_too_large : (Instr.wupdate 0 2048).wellFormed = false := by decide
theorem test_countFits_too_large : countFits 2048 = false := by decide
theorem test_wellFormed_largest : (Instr.wupdate 2047 2047).wellFormed = true := by decide

/-! ### Decoding: words written out from 30_encoding.md R82 and R83, fields RSV NNEW NOLD OPC -/

theorem test_decode_nop : decode 0b00_00000000000_00000000000_00000000#32 = .ok .nop := by decide
theorem test_decode_clrerr : decode 0b00_00000000000_00000000000_00000001#32 = .ok .clrerr := by decide
theorem test_decode_bstep : decode 0b00_00000000000_00000000000_00010000#32 = .ok .bstep := by decide
theorem test_decode_mul8 : decode 0b00_00000000000_00000000000_00010001#32 = .ok .mul8 := by decide
theorem test_decode_mul32 : decode 0b00_00000000000_00000000000_00010010#32 = .ok .mul32 := by decide
theorem test_decode_wreset : decode 0b00_00000000000_00000000000_00100000#32 = .ok .wreset := by decide
theorem test_decode_wupdate :
    decode 0b00_10000000001_00000000010_00100001#32 = .ok (.wupdate 2 1025) := by decide
theorem test_decode_rsv : decode 0b01_00000000000_00000000000_00100001#32 = .error .reservedBits := by decide
theorem test_decode_stray : decode 0x00000101#32 = .error .strayFields := by decide
theorem test_decode_unassigned : decode 0x00000002#32 = .error .unassignedOpcode := by decide
/-- 95_test_vectors.md L1.8: WUPDATE 1,3 is 00180121. -/
theorem test_encode_wupdate : encode (.wupdate 1 3) = 0x00180121#32 := by decide
theorem test_decodeTableWord : decodeTableWord 32 0x00480021 = some (.wupdate 0 9) := by decide
theorem test_decodeTableWord_short : decodeTableWord 8 0x12 = some .mul32 := by decide

/-! ### Commands -/

/-- 95_test_vectors.md L2.6. -/
theorem test_nop : after (exec .nop (operands 5#32 6#32)) = operands 5#32 6#32 := by decide

/-- 95_test_vectors.md L2.6: STATUS 12, ERRINFO 00080121 before. -/
theorem test_clrerr :
    (fun s => (statusWord s, s.errinfo))
      (after (exec .clrerr { State.reset with err := true, errcode := 1#4, errinfo := 0x00080121#32 }))
      = (0#32, 0#32) := by decide

/-- 95_test_vectors.md L2.1. -/
theorem test_bstep : (after (exec .bstep (operands 0xDEADBEEF#32 0xA5#32))).result = 0x96D70530#32 := by decide

/-- 95_test_vectors.md L2.1: OPB[31:8] is ignored. -/
theorem test_bstep_high_bits : (after (exec .bstep (operands 0xFFFFFFFF#32 0xABCDEF00#32))).result = 0x2DFD1072#32 := by
  decide

/-- 95_test_vectors.md L2.2. -/
theorem test_mul8 : (after (exec .mul8 (operands 0xDEADBEEF#32 0xA5#32))).result = 0x4A9F23B3#32 := by decide

/-- 95_test_vectors.md L2.2: OPB[31:8] is ignored. -/
theorem test_mul8_high_bits : (after (exec .mul8 (operands 0x12345678#32 0xFFFFFF80#32))).result = 0x12345678#32 := by
  decide

/-- 95_test_vectors.md L2.3. -/
theorem test_mul32 : (after (exec .mul32 (operands 0xFFFFFFFF#32 0xFFFFFFFF#32))).result = 0x3E7895E8#32 := by decide

/-- 95_test_vectors.md L2.3. -/
theorem test_mul32_power : (after (exec .mul32 (operands 0xEDB88320#32 0xEDB88320#32))).result = 0xB1E6B092#32 := by
  decide

/-- 95_test_vectors.md L2.5. -/
theorem test_wreset : after (exec .wreset (nineWindow slideMem)) = { State.reset with mem := slideMem } := by decide

/-- 95_test_vectors.md L1.8 step 2: old "12", new "AB". -/
theorem test_wupdate_slide :
    after (exec (.wupdate 2 2) (nineWindow slideMem)) = { nineWindow slideMem with core := 0x42D7FBEA#32 } := by
  decide +kernel

/-- 95_test_vectors.md L1.8 step 3, from the state of step 2: old "3", new "CDE"; the cache starts again. -/
theorem test_wupdate_grow :
    (fun s => (s.length, s.core, s.zc, s.oc, s.xpc, s.xpcN))
      (after (exec (.wupdate 1 3)
        { nineWindow [(0x400, 0x33#8), (0x800, 0x43#8), (0x801, 0x44#8), (0x802, 0x45#8)] with core := 0x42D7FBEA#32 }))
      = (11#64, 0xC842C246#32, 0x6B87B1EC#32, 0x77E1359F#32, 0x00008000#32, 2) := by
  decide +kernel

/-- 95_test_vectors.md L2.4. -/
theorem test_xpow : (xpow 0xEDB88320#32 9, xpow 0xEDB88320#32 32) = (0x1EB014D8#32, 0xED627DAE#32) := by
  decide +kernel

/-- 95_test_vectors.md L1.1: TABLE[0x80] = POLY_REV, and the first step of CRC32std(00). -/
theorem test_table : (tableEntry 0xEDB88320#32 0x80#8, crcStep 0xEDB88320#32 ones 0#8) = (0xEDB88320#32, 0x2DFD1072#32) := by
  decide

/-! ### The bus and errors: rows of 95_test_vectors.md L2.7, as (STATUS, ERRINFO, answer) -/

def seen (s : State) : Word × Word × Option BusAnswer := (statusWord s, s.errinfo, s.answer)

theorem test_read_past_buffer :
    seen (access (.read 0x500#12 .four) State.reset) = (0x72#32, 0x500#32, some (.read 0#32 .err)) := by decide
theorem test_read_misaligned :
    seen (access (.read 0x006#12 .four) State.reset) = (0x72#32, 0x006#32, some (.read 0#32 .err)) := by decide
theorem test_write_core :
    seen (access (.write 0x018#12 .four 1#32) State.reset) = (0x72#32, 0x018#32, some (.write .err)) := by decide
theorem test_count_range :
    seen (access (cmdWrite 0x00012C21#32) State.reset) = (0x42#32, 0x00012C21#32, some (.write .ok)) := by decide
theorem test_underflow_wins :
    seen (access (cmdWrite 0x00080221#32) State.reset) = (0x12#32, 0x00080221#32, some (.write .ok)) := by decide
theorem test_shrink :
    seen (access (cmdWrite 0x00080221#32) { State.reset with length := 4#64 })
      = (0x22#32, 0x00080221#32, some (.write .ok)) := by decide
theorem test_overflow :
    seen (access (cmdWrite 0x00080021#32) { State.reset with length := 0xFFFFFFFFFFFFFFFF#64 })
      = (0x52#32, 0x00080021#32, some (.write .ok)) := by decide
theorem test_busy_violation :
    seen (access (.write 0x008#12 .four 1#32) { State.reset with pend := some 0#32 })
      = (0x63#32, 0x008#32, some (.write .err)) := by decide

/-- 20_memory.md R59, 95_test_vectors.md P1: 0x34333231 holds "1234". -/
theorem test_buffer_write :
    (access (.write 0x800#12 .four 0x34333231#32) State.reset).mem
      = [(0x800, 0x31#8), (0x801, 0x32#8), (0x802, 0x33#8), (0x803, 0x34#8)] := by decide

/-- 95_test_vectors.md P1, first lines: the words of LOADB (30_encoding.md R87). -/
theorem test_loadb :
    ScriptLine.expand (.loadb .newbuf 0 nineBytes)
      = .ok [.tx (.write 0x800#12 .four 0x34333231#32), .tx (.write 0x804#12 .four 0x38373635#32),
          .tx (.write 0x808#12 .four 0x00000039#32)] := by rfl

/-- A command placed for the next step runs as the first one after reset (log 7). -/
theorem test_withFetchWord : step (State.reset.withFetchWord 32 0x12) = exec .mul32 State.reset := by rfl

/-! ### States that meet the invariant -/

/-- The window of nine bytes meets the invariant, with any command in flight that acceptance let in, any
schedule, and any canonical buffer contents. -/
theorem nine_inv (mem : Memory) (w : Word) (i : Instr) (q : List Agent) (hm : mem.wf)
    (hb : ∀ c ∈ mem, isBufferByte Config.default c.1 = true) (hd : decode w = .ok i)
    (hc : acceptCheck i (nineWindow mem) = none) :
    MachineInv { nineWindow mem with pend := some w, sched := q } where
  memCanonical := hm
  memInBuffers := hb
  errorClear := fun _ => ⟨rfl, rfl⟩
  errorCode := fun h => by cases h
  errorIsFault := fun h => by cases h
  cachePower := by change 0x1EB014D8#32 = xpow 0xEDB88320#32 9; decide +kernel
  cacheBound := by change 9 ≤ 256; omega
  zcLength := by change 0xE60914AE#32 = zcOfLength 0xEDB88320#32 9; decide +kernel
  ocLength := by change 0x6655004F#32 = ocOfLength 0xEDB88320#32 9; decide +kernel
  pending := by
    intro v hv
    cases hv
    exact ⟨i, hd, by rw [← hc]; cases i <;> rfl⟩

theorem slideMem_wf : slideMem.wf := by decide

theorem slideMem_in : ∀ c ∈ slideMem, isBufferByte Config.default c.1 = true := by decide

/-- The nine-byte window with WUPDATE 2,2 in flight and the engine to move. -/
def sliding : State := { nineWindow slideMem with pend := some 0x00100221#32, sched := [.engine] }

theorem sliding_inv : MachineInv sliding :=
  nine_inv slideMem _ (.wupdate 2 2) _ slideMem_wf slideMem_in (by decide) (by decide)

theorem sliding_holds : Holds nineBytes sliding := by
  refine ⟨by decide, ?_⟩
  change 0x2DFD2D88#32 = unmasked 0xEDB88320#32 nineBytes
  decide +kernel

theorem reset_inv : MachineInv State.reset where
  memCanonical := State.reset_mem_wf
  memInBuffers := fun c h => by cases h
  errorClear := fun _ => ⟨rfl, rfl⟩
  errorCode := fun h => by cases h
  errorIsFault := fun h => by cases h
  cachePower := rfl
  cacheBound := Nat.zero_le _
  zcLength := by decide
  ocLength := by change 0xEDB88320#32 = ocOfLength 0xEDB88320#32 0; decide +kernel
  pending := fun w h => by cases h

/-! ### Witnesses, one per statement with hypotheses, in the order of the obligations -/

theorem witness_DecodeOfEncodeIsTheCommand :
    (Instr.wupdate 2047 2047).wellFormed = true ∧ (Instr.wupdate 0 0).wellFormed = true ∧ Instr.nop.wellFormed = true := by
  decide

theorem witness_EncodeOfDecodeIsTheWord : decode 0x3FFFFF21#32 = .ok (.wupdate 2047 2047) := by decide

/-- No instruction is decoded from this word. -/
theorem illegal_word : ¬∃ i, decode 0x00000002#32 = .ok i := by
  rintro ⟨i, h⟩
  cases h

theorem witness_LegalCommandWords : (¬∃ i, decode 0x00000002#32 = .ok i) ∧ State.reset.pend = none :=
  ⟨illegal_word, rfl⟩

theorem witness_StepCompletesTheCommandInFlight :
    decode 0x00000000#32 = .ok .nop ∧ decode 0x3FFFFF21#32 = .ok (.wupdate 2047 2047) := by decide

/-- Each clause at a boundary of its range: BUF_DEPTH + 1 old or new bytes; one more than LENGTH; one
fewer new than old; one past 2^64 − 1; and the largest counts and length that pass. -/
theorem witness_CommandAcceptance :
    ((¬∃ i, decode 0x00000002#32 = .ok i) ∧ State.reset.pend = none) ∧
    (State.reset.cfg.bufDepth < 257 ∧ (257 : Nat) < 2048) ∧
    (1 ≤ State.reset.cfg.bufDepth ∧ State.reset.length.toNat < 1) ∧
    (fun s : State => 256 ≤ s.cfg.bufDepth ∧ 255 ≤ s.cfg.bufDepth ∧ 256 ≤ s.length.toNat ∧ 255 < 256)
      { State.reset with length := 256#64 } ∧
    (fun s : State => 0 ≤ s.length.toNat ∧ 2 ^ 64 - 1 < s.length.toNat + (1 - 0))
      { State.reset with length := 0xFFFFFFFFFFFFFFFF#64 } ∧
    updateReady 256 256 { State.reset with length := 256#64 } ∧
    updateReady 0 1 { State.reset with length := 0xFFFFFFFFFFFFFFFE#64 } := by
  unfold updateReady
  exact ⟨witness_LegalCommandWords, by decide⟩

/-- An error is recorded, and the host, the engine with CLRERR, or a reset moves. -/
theorem witness_FirstErrorIsKept :
    (fun s : State => s.err = true ∧ completing s ≠ some .clrerr ∧ nextAgent s ≠ .reset ∧ ∃ t, step s = .next t)
      { State.reset with err := true, errcode := 7#4 } ∧
    (fun s : State => s.err = true ∧ completing s = some .clrerr ∧ ∃ t, step s = .next t)
      { State.reset with err := true, errcode := 7#4, pend := some 0x00000001#32 } ∧
    (fun s : State => s.err = true ∧ nextAgent s = .reset ∧ ∃ t, step s = .next t)
      { State.reset with err := true, errcode := 7#4, sched := [.reset] } :=
  ⟨⟨rfl, by decide, by decide, _, rfl⟩, ⟨rfl, by decide, _, rfl⟩, ⟨rfl, by decide, _, rfl⟩⟩

theorem witness_FaultRecordIsNeverCleared :
    (fun s : State => s.err = false ∧ ∃ t, step s = .next t ∧ t.err = true)
      { State.reset with host := [.tx (.read 0x006#12 .four)] } := ⟨rfl, _, rfl, rfl⟩

theorem witness_CompletionRaisesNoError :
    MachineInv sliding ∧ nextAgent sliding = .engine ∧ completing sliding ≠ some .clrerr ∧ ∃ t, step sliding = .next t :=
  ⟨sliding_inv, rfl, by decide, _, rfl⟩

theorem witness_NarrowOrMisalignedIsBadAccess :
    (AccessSize.two ≠ .four) ∧ (AccessSize.one ≠ .four) ∧ (0x006#12).toNat % 4 ≠ 0 ∧ (0xFFF#12).toNat % 4 ≠ 0 := by
  decide

/-- The default configuration with BUF_DEPTH = 1024, the largest (00_scope.md R5). -/
def deepest : Config := { Config.default with bufWordsLessOne := 255 }

theorem default_depth : Config.default.bufDepth = 256 := rfl

theorem deepest_depth : deepest.bufDepth = 1024 := rfl

/-- The ends of every reserved range and of both buffers, for the default and the largest BUF_DEPTH. -/
theorem witness_AddressMap :
    (isReserved Config.default 0x034#12 ∧ isReserved Config.default 0x3FC#12 ∧ isReserved Config.default 0x500#12 ∧
      isReserved Config.default 0x7FC#12 ∧ isReserved Config.default 0x900#12 ∧ isReserved Config.default 0xFFC#12) ∧
    (isReserved deepest 0x034#12 ∧ isReserved deepest 0x3FC#12 ∧ isReserved deepest 0xC00#12 ∧ isReserved deepest 0xFFC#12) ∧
    (isBufferWord Config.default 0x400#12 ∧ isBufferWord Config.default 0x4FC#12 ∧
      isBufferWord Config.default 0x800#12 ∧ isBufferWord Config.default 0x8FC#12) ∧
    (isBufferWord deepest 0x400#12 ∧ isBufferWord deepest 0x7FC#12 ∧ isBufferWord deepest 0x800#12 ∧
      isBufferWord deepest 0xBFC#12) ∧
    (0x034#12).toNat % 4 = 0 ∧ (0xFFC#12).toNat % 4 = 0 ∧ State.reset.pend = none := by
  unfold isReserved isBufferWord
  rw [default_depth, deepest_depth]
  refine ⟨?_, ?_, ?_, ?_, ?_⟩ <;> decide

theorem witness_BufferWordsAreLittleEndian :
    isBufferWord State.reset.cfg 0x8FC#12 ∧ isBufferWord State.reset.cfg 0x400#12 ∧ State.reset.pend = none := by
  unfold isBufferWord
  decide

theorem witness_UnwrittenBytesAreRecordedFaults :
    isBufferWord State.reset.cfg 0x400#12 ∧ State.reset.mem.read 0x400 = none ∧
    (fun s : State => isBufferWord s.cfg 0x800#12 ∧ ∀ j < 4, s.mem.read (0x800 + j) ≠ none) nineDigits ∧
    (updateReady 0 256 State.reset ∧ State.reset.mem.read 0x8FF = none) ∧
    (updateReady 2 2 (nineWindow slideMem) ∧ allWritten 2 2 (nineWindow slideMem)) := by
  unfold isBufferWord updateReady allWritten
  decide

theorem witness_BusyInterlock :
    (fun s : State => s.pend ≠ none ∧ isBufferWord s.cfg 0x8FC#12 ∧ nextAgent s = .host ∧ ∃ t, step s = .next t)
      { State.reset with pend := some 0#32, sched := [.host], host := [.tx (.write 0x8FC#12 .four 1#32)] } :=
  ⟨by decide, by unfold isBufferWord; decide, rfl, _, rfl⟩

theorem witness_WriteRacingACompletion : ({ State.reset with pend := some 0#32 } : State).pend ≠ none := by decide

theorem witness_AccessSideEffects :
    ((access (.read 0x02C#12 .four) State.reset).answer = some (.read 0xEDB88320#32 .ok)) ∧
    ((access (.read 0x034#12 .four) State.reset).answer = some (.read 0#32 .err)) ∧
    ((access (.write 0x8FC#12 .four 1#32) State.reset).answer = some (.write .ok)) ∧
    (State.reset.pend = none ∧ (access (cmdWrite 0x10#32) State.reset).pend = some 0x10#32) := by decide

theorem witness_SumRead :
    Holds (List.replicate 0 0#8) State.reset ∧
    (fun s : State => Holds (List.replicate s.length.toNat 0#8) s) { State.reset with length := 4#64, zc := 0x2144DF1C#32 } := by
  unfold Holds
  decide +kernel

theorem witness_ErrcodeIsZeroOrOneToSeven : MachineInv State.reset ∧ MachineInv sliding := ⟨reset_inv, sliding_inv⟩

theorem witness_BstepCommand :
    (fun s : State => s.opa = 0#32 ∧ s.opb.extractLsb' 0 8 = 0#8) (operands 0#32 0xFFFFFF00#32) ∧
    (operands 0#32 0xFF#32).opa = 0#32 ∧
    (fun s : State => s.opb.extractLsb' 0 8 = s.opa.extractLsb' 0 8) (operands 0x12345678#32 0x78#32) ∧
    (fun s : State => s.cfg.polyRev = 0xEDB88320#32 ∧ s.opa = 0xFFFFFFFF#32 ∧ s.opb = 0#32) (operands 0xFFFFFFFF#32 0#32) := by
  decide

theorem witness_Mul8Command :
    (operands 0x12345678#32 0xFFFFFF00#32).opb.extractLsb' 0 8 = 0#8 ∧ (operands 0#32 0xFF#32).opa = 0#32 ∧
    (operands 0x12345678#32 0xFFFFFF80#32).opb.extractLsb' 0 8 = 0x80#8 ∧
    (operands 0x80000000#32 0x5A#32).opa = 0x80000000#32 ∧
    (fun s : State => s.opa = 0x80#32 ∧ s.opb.extractLsb' 0 8 = 0x01#8) (operands 0x80#32 0x01#32) ∧
    (fun s : State => s.cfg.polyRev = 0xEDB88320#32 ∧ s.opa = 1#32 ∧ s.opb = 1#32) (operands 1#32 1#32) := by
  decide

theorem witness_Mul32Command :
    (operands 0#32 5#32).opa = 0#32 ∧ (operands 5#32 0#32).opb = 0#32 ∧
    (operands 5#32 0x80000000#32).opb = 0x80000000#32 ∧ (operands 0x80000000#32 5#32).opa = 0x80000000#32 ∧
    (fun s : State => s.opa = 1#32 ∧ s.opb = 0x40000000#32) (operands 1#32 0x40000000#32) ∧
    (fun s : State => s.cfg.polyRev = 0xEDB88320#32 ∧ s.opa = 1#32 ∧ s.opb = 1#32) (operands 1#32 1#32) ∧
    (fun s : State => s.cfg.polyRev = 0xEDB88320#32 ∧ s.opa = 0xDEADBEEF#32 ∧ s.opb = 0x12345678#32)
      (operands 0xDEADBEEF#32 0x12345678#32) := by decide

theorem witness_NopCommand : State.reset.pend = none := rfl

theorem witness_ClrerrCommand : MachineInv State.reset ∧ State.reset.err = false ∧ State.reset.pend = none :=
  ⟨reset_inv, rfl, rfl⟩

theorem witness_WresetCommand :
    MachineInv State.reset ∧ Holds [] State.reset ∧ State.reset.cfg.polyRev = 0xEDB88320#32 :=
  ⟨reset_inv, ⟨rfl, rfl⟩, rfl⟩

/-- Two states that agree on the window and on the bytes used, and differ elsewhere. -/
theorem witness_WindowDependsOnlyOnTheWindow :
    (fun s t : State => sameWindow s t ∧ sameOperandBytes (.wupdate 2 2) s t ∧ s ≠ t ∧
        (∀ i ∈ [Instr.wupdate 2 2, .wreset], sameOperandBytes i s t) ∧
        (∃ s', exec (.wupdate 2 2) s = .next s') ∧ (∃ t', exec (.wupdate 2 2) t = .next t') ∧
        (∃ s', execAll [.wupdate 2 2, .wreset] s = .next s') ∧ ∃ t', execAll [.wupdate 2 2, .wreset] t = .next t')
      (nineWindow slideMem) { nineWindow slideMem with opa := 1#32 } := by
  refine ⟨⟨rfl, rfl, rfl, rfl, rfl, rfl, rfl⟩, ⟨fun _ _ => rfl, fun _ _ => rfl⟩, by decide, ?_,
    ⟨_, rfl⟩, ⟨_, rfl⟩, ⟨_, rfl⟩, _, rfl⟩
  intro i hi
  rcases List.mem_cons.mp hi with rfl | hi
  · exact ⟨fun _ _ => rfl, fun _ _ => rfl⟩
  · rw [List.mem_singleton.mp hi]
    trivial

/-- A slide and a growth, with every byte used written, and one with none written; the largest counts. -/
theorem witness_WupdateCommand :
    (fun s : State => updateReady 2 2 s ∧ s.xpc = xpow s.cfg.polyRev s.xpcN ∧ allWritten 2 2 s) (nineWindow slideMem) ∧
    (fun s : State => updateReady 0 2 s ∧ s.xpc = xpow s.cfg.polyRev s.xpcN ∧ allWritten 0 2 s) (nineWindow slideMem) ∧
    (fun s : State => updateReady 0 256 s ∧ s.xpc = xpow s.cfg.polyRev s.xpcN ∧ ¬allWritten 0 256 s) State.reset := by
  unfold updateReady allWritten
  decide +kernel

theorem witness_WupdateCornerCases :
    (State.reset.pend = none ∧ State.reset.length.toNat ≤ 2 ^ 64 - 1) ∧
    updateReady 9 9 (nineWindow slideMem) ∧ (256 ≤ Config.default.bufDepth) ∧
    (updateReady 0 256 State.reset ∧ State.reset.length = 0#64 ∧
      State.reset.xpc = xpow State.reset.cfg.polyRev State.reset.xpcN) ∧
    ¬updateReady 1 1 State.reset ∧
    (fun s : State => updateReady 0 2 s ∧ s.core = 0#32 ∧ ∀ i < 2, s.byteAt (0x800 + i) = 0#8)
      { State.reset with mem := [(0x800, 0#8), (0x801, 0#8)] } := by
  unfold updateReady
  decide +kernel

/-- The whole window replaced: its two bytes are in OLDBUF. -/
theorem witness_WupdateCornerCases_whole :
    (fun s : State => MachineInv s ∧ updateReady 0 0 s ∧ 0 = s.length.toNat ∧ Holds (oldBytes s 0) s) State.reset ∧
    (fun s : State => updateReady 2 2 s ∧ 2 = s.length.toNat ∧ Holds (oldBytes s 2) s)
      { State.reset with length := 2#64, core := unmasked 0xEDB88320#32 [0x31#8, 0x32#8], mem := slideMem } := by
  refine ⟨⟨reset_inv, ?_, rfl, ⟨rfl, rfl⟩⟩, ?_⟩
  · unfold updateReady
    decide
  · unfold updateReady Holds
    decide +kernel

theorem witness_StrideInvariance :
    (fun s : State => updateReady 9 9 s ∧ updateReady 0 256 s ∧ s.xpc = xpow s.cfg.polyRev s.xpcN) (nineWindow slideMem) := by
  unfold updateReady
  decide +kernel

/-- The three cases of the cache: the same exponent, a larger one and a smaller one. -/
theorem witness_CachedPowerIsXPow :
    (fun s : State => s.xpc = xpow s.cfg.polyRev s.xpcN ∧ 9 = s.xpcN ∧ s.xpcN < 10 ∧ 8 < s.xpcN ∧ updateReady 1 2 s ∧ 1 < 2)
      (nineWindow slideMem) ∧ ∃ t, exec (.wupdate 1 2) (nineWindow slideMem) = .next t := by
  refine ⟨?_, _, rfl⟩
  unfold updateReady
  decide +kernel

theorem witness_CorrectionPolynomials : MachineInv State.reset ∧ State.reset.length = 0#64 ∧ MachineInv sliding :=
  ⟨reset_inv, rfl, sliding_inv⟩

theorem sliding_contract : contractStep nineBytes sliding := by
  change oldBytes sliding 2 = nineBytes.take 2
  decide

theorem witness_StepTracksTheGhostWindow :
    MachineInv sliding ∧ Holds nineBytes sliding ∧ contractStep nineBytes sliding ∧ ∃ t, step sliding = .next t :=
  ⟨sliding_inv, sliding_holds, sliding_contract, _, rfl⟩

theorem witness_SumIsTheChecksumOfTheWindow :
    MachineInv sliding ∧ Holds nineBytes sliding ∧ contractRun 1 nineBytes sliding ∧
      ∃ t, Sys2Proof.core.run 1 sliding = .next t :=
  ⟨sliding_inv, sliding_holds, ⟨sliding_contract, trivial⟩, _, rfl⟩

/-- From reset: a script that puts "A" in NEWBUF and grows the window by it. -/
theorem witness_SumIsTheChecksumOfTheWindow_reset :
    (fun s : State => contractRun 3 [] s ∧ (∃ t, Sys2Proof.core.run 3 s = .next t) ∧ ghostRun 3 [] s = [0x41#8])
      { State.resetOf Config.default with
        host := [.tx (.write 0x800#12 .four 0x00000041#32), .tx (cmdWrite 0x00080021#32)], sched := [] } := by
  refine ⟨⟨trivial, trivial, ?_, trivial⟩, ⟨_, rfl⟩, by decide +kernel⟩
  change oldBytes _ 0 = List.take 0 _
  rfl

theorem witness_ArithmeticFrame :
    ∀ i ∈ [Instr.bstep, Instr.mul8, Instr.mul32], ∃ t, exec i State.reset = .next t := by
  intro i hi
  simp only [List.mem_cons, List.not_mem_nil, or_false] at hi
  rcases hi with rfl | rfl | rfl <;> exact ⟨_, rfl⟩

theorem witness_ControlAndWindowFrames :
    (∃ t, exec .nop State.reset = .next t) ∧ (∃ t, exec .clrerr State.reset = .next t) ∧
    (∃ t, exec .wreset State.reset = .next t) ∧
    (updateReady 0 256 State.reset ∧ ∃ t, exec (.wupdate 0 256) State.reset = .next t) ∧
    (¬updateReady 1 1 State.reset ∧ ∃ t, exec (.wupdate 1 1) State.reset = .next t) := by
  refine ⟨⟨_, rfl⟩, ⟨_, rfl⟩, ⟨_, rfl⟩, ⟨?_, _, rfl⟩, ?_, _, rfl⟩ <;> unfold updateReady <;> decide

theorem witness_EveryStepKeepsTheInvariant :
    (MachineInv sliding ∧ ∃ t, step sliding = .next t) ∧ MachineInv State.reset ∧ ∃ t, step State.reset = .next t :=
  ⟨⟨sliding_inv, _, rfl⟩, reset_inv, _, rfl⟩

theorem witness_ConfigurationNeverChanges : ∃ t, step State.reset = .next t := ⟨_, rfl⟩

/-- Each register named there does change in some step of the kind the statement allows. -/
theorem witness_WhoWritesEachRegister :
    (fun s : State => ∃ t, step s = .next t ∧ nextAgent s ≠ .reset ∧ t.result ≠ s.result)
      { operands 0#32 0x80#32 with pend := some 0x00000010#32 } ∧
    (fun s : State => ∃ t, step s = .next t ∧ nextAgent s ≠ .reset ∧ t.opa ≠ s.opa)
      { State.reset with host := [.tx (.write 0x008#12 .four 1#32)] } ∧
    (fun s : State => ∃ t, step s = .next t ∧ nextAgent s ≠ .reset ∧ t.length ≠ s.length)
      { nineWindow [] with pend := some 0x00000020#32 } :=
  ⟨⟨_, rfl, by decide, by decide⟩, ⟨_, rfl, by decide, by decide⟩, ⟨_, rfl, by decide, by decide⟩⟩

theorem witness_BufferBytesPersist :
    (nextAgent sliding = .engine ∧ ∃ t, step sliding = .next t) ∧
    (fun s : State => nextAgent s = .host ∧ ∃ t, step s = .next t ∧ t.mem.read 0x8FF ≠ s.mem.read 0x8FF)
      { State.reset with host := [.tx (.write 0x8FC#12 .four 1#32)] } ∧
    (fun s : State => nextAgent s = .reset ∧ ∃ t, step s = .next t) { State.reset with sched := [.reset] } :=
  ⟨⟨rfl, _, rfl⟩, ⟨rfl, _, rfl, by decide⟩, rfl, _, rfl⟩

theorem witness_WaitTerminates :
    ({ State.reset with pend := some 0#32, host := [.poll 0x004#12 1#32 0#32] } : State).host
      = [.poll 0x004#12 1#32 0#32] := rfl

/-- The last word of the buffer, and a whole buffer. -/
theorem witness_LoadbWritesItsBytes :
    (252 % 4 = 0 ∧ 252 + [0x41#8, 0x42#8, 0x43#8, 0x44#8].length ≤ State.reset.cfg.bufDepth ∧ State.reset.pend = none) ∧
    0 % 4 = 0 ∧ 0 + (List.replicate 256 0#8).length ≤ State.reset.cfg.bufDepth := by
  rw [List.length_replicate]
  decide

theorem witness_DoRunsTheCommand :
    (fun s : State => (Instr.wupdate 0 256).wellFormed = true ∧ s.pend = none ∧ s.sched = [] ∧ s.host = [] ∧
      acceptCheck (.wupdate 0 256) s = none) State.reset ∧ (2048 ≤ 2048 ∨ 2048 ≤ 0) := by decide

end Sys2Proof.Tests
end

section
/-! The two checksums of 00_scope.md R13: their recurrences, one equation per function and list form,
and the polynomial that Unmasked computes. -/

namespace Sys2Proof.Machine
open Polynomial

@[simp] theorem unmasked_nil (p : Word) : unmasked p [] = 0#32 := rfl

@[simp] theorem unmasked_append_singleton (p : Word) (bytes : List Byte) (b : Byte) :
    unmasked p (bytes ++ [b]) = crcStep p (unmasked p bytes) b := List.foldl_concat ..

/-- Undoing the final complement of CRC32std leaves its recurrence's value r_n. -/
theorem crc32std_xor_ones (p : Word) (bytes : List Byte) :
    crc32std p bytes ^^^ ones = bytes.foldl (crcStep p) ones := by
  rw [crc32std, BitVec.xor_assoc, BitVec.xor_self, BitVec.xor_zero]

theorem crc32std_append_singleton_xor_ones (p : Word) (bytes : List Byte) (b : Byte) :
    crc32std p (bytes ++ [b]) ^^^ ones = crcStep p (crc32std p bytes ^^^ ones) b := by
  rw [crc32std_xor_ones, crc32std_xor_ones, List.foldl_concat]

@[simp] theorem messagePoly_nil : messagePoly [] = 0 := rfl

/-- A byte appended to a message moves the earlier bytes up by eight powers of x. -/
theorem messagePoly_append_singleton (bytes : List Byte) (b : Byte) :
    messagePoly (bytes ++ [b]) = messagePoly bytes * X ^ 8 + rho8 b := by
  rw [messagePoly_range, messagePoly_range, List.length_append, List.length_singleton,
    Finset.sum_range_succ, Finset.sum_mul]
  refine congrArg₂ (· + ·) (Finset.sum_congr rfl fun i hi => ?_) ?_
  · have hlt : i < bytes.length := Finset.mem_range.mp hi
    rw [List.getD_append _ _ _ _ hlt, mul_assoc, ← pow_add]
    congr 2
    omega
  · simp

/-- Unmasked in the quotient ring: each Step multiplies by x^8 and adds its byte times x^32. -/
theorem residue_unmasked (p : Word) (bytes : List Byte) :
    residue p (unmasked p bytes) = AdjoinRoot.mk (generator p) (messagePoly bytes * X ^ 32) := by
  induction bytes using List.reverseRecOn with
  | nil => rw [unmasked_nil, residue_zero, messagePoly_nil, zero_mul, map_zero]
  | append_singleton bytes b ih =>
    rw [unmasked_append_singleton, residue_crcStep, ih, messagePoly_append_singleton, residue8]
    simp only [map_add, map_mul, map_pow, mk_X]
    ring

/-- Settles O23: the recurrences unfold the last byte of each fold, and the polynomial form is
`residue_unmasked` brought back from the quotient ring. -/
theorem checksumDefinitions : Obligations.ChecksumDefinitions :=
  ⟨fun _ => ⟨rfl, unmasked_nil _⟩,
    fun p bytes b => ⟨crc32std_append_singleton_xor_ones p bytes b, unmasked_append_singleton p bytes b⟩,
    fun p bytes => rho32_eq_modByMonic_of_mk (residue_unmasked p bytes)⟩

end Sys2Proof.Machine
end

section
/-! There is no stuck state (00_scope.md R14, R15): each agent's step answers a next state. -/

namespace Sys2Proof.Machine

/-- The engine answers a next state: idle, with a word that is not legal, or with a command, which
always completes. -/
theorem engineStep_next (s : State) : ∃ t, engineStep s = .next t := by
  unfold engineStep
  split
  next => exact ⟨_, rfl⟩
  next w _ =>
    split
    next i _ => exact exec_next i (complete s)
    next => exact ⟨_, rfl⟩

/-- Settles O52, by the agent that moves. -/
theorem everyStepAnswersANextState : Obligations.EveryStepAnswersANextState := by
  intro s
  cases ha : nextAgent s with
  | host => exact ⟨_, step_host ha⟩
  | engine => rw [step_engine ha]; exact engineStep_next _
  | reset => exact ⟨_, step_reset ha⟩

end Sys2Proof.Machine
end

section
/-! The two corrections in the quotient ring GF(2)[x]/G (10_state.md R27, R28): the power of x each
stands for, its value for the empty window, and the rescaling of a grown window (42_window.md R164). -/

namespace Sys2Proof.Machine

/-- ZC is the complement of the recurrence's value over LENGTH zero bytes, which stands for ONES · x^(8L)
(10_state.md R28). -/
theorem residue_not_zcOfLength (p : Word) (len : ℕ) :
    residue p (~~~zcOfLength p len) = residue p ones * residueX p ^ (8 * len) := by
  have hc : ~~~zcOfLength p len = (List.replicate len 0#8).foldl (crcStep p) ones := by
    rw [← crc32std_xor_ones, show ones = BitVec.allOnes 32 by decide, BitVec.xor_allOnes, zcOfLength]
  rw [hc]
  clear hc
  induction len with
  | zero => simp
  | succ len ih =>
    rw [List.replicate_succ', List.foldl_concat, residue_crcStep_zero, ih]
    ring

/-- OC stands for x^(32 + 8(max(L,1) − 1)) (10_state.md R27). -/
theorem residue_ocOfLength (p : Word) (len : ℕ) :
    residue p (ocOfLength p len) = residueX p ^ (32 + 8 * (max len 1 - 1)) := by
  rw [ocOfLength, residue_xpow, Nat.mul_add]

theorem zcOfLength_zero (p : Word) : zcOfLength p 0 = 0#32 := by
  rw [zcOfLength, List.replicate_zero, crc32std, List.foldl_nil, BitVec.xor_self]

/-- OC of the empty window is POLY_REV, for x^32 is (00_scope.md R11). -/
theorem ocOfLength_zero (p : Word) : ocOfLength p 0 = p :=
  residue_injective (p := p) (by rw [residue_ocOfLength, ← residueX_pow_32]; rfl)

/-- The seed of a window that grows from length 0 stands for x^24 (42_window.md R167). -/
theorem residue_seed (p : Word) : residue p 0x00000080#32 = residueX p ^ 24 := by
  have h : (0x00000080#32 : Word) = BitVec.twoPow 32 7 := by decide
  rw [residue, h, rho32_twoPow 7 (by decide), map_pow, mk_X]

/-- Growth by `k` bytes multiplies the complement of ZC by x^(8k) (42_window.md R164). -/
theorem zcOfLength_add (p : Word) (len k : ℕ) :
    ~~~mul32 p (~~~zcOfLength p len) (xpow p k) = zcOfLength p (len + k) := by
  have h : mul32 p (~~~zcOfLength p len) (xpow p k) = ~~~zcOfLength p (len + k) := by
    apply residue_injective (p := p)
    rw [residue_mul32, residue_not_zcOfLength, residue_not_zcOfLength, residue_xpow]
    ring
  rw [h, BitVec.not_not]

/-- Growth by `k > 0` bytes multiplies OC by x^(8k), from the seed at length 0 (42_window.md R164, R167). -/
theorem ocOfLength_add (p : Word) (len k : ℕ) (hk : k ≠ 0) :
    mul32 p (if len = 0 then 0x00000080#32 else ocOfLength p len) (xpow p k) = ocOfLength p (len + k) := by
  apply residue_injective (p := p)
  rw [residue_mul32, residue_ocOfLength, residue_xpow]
  split
  next h => rw [residue_seed, ← pow_add]; congr 1; omega
  next h => rw [residue_ocOfLength, ← pow_add]; congr 1; omega

/-- `j` further steps of the recurrence of R122 lead from one power of x to another. -/
theorem iterate_xpow (p : Word) (n j : ℕ) : (fun c => crcStep p c 0#8)^[j] (xpow p n) = xpow p (n + j) := by
  induction j with
  | zero => rfl
  | succ j ih => rw [Function.iterate_succ_apply', ih]; rfl

/-- While XPC = XPow(XPC_N) the cache gives XPow(k) in each of its three cases (42_window.md R170). -/
theorem cachedPower_eq_xpow {s : State} (h : s.xpc = xpow s.cfg.polyRev s.xpcN) (k : ℕ) :
    cachedPower s k = xpow s.cfg.polyRev k := by
  unfold cachedPower
  split
  next he => rw [h, he]
  next =>
    split
    next hlt => rw [h, iterate_xpow, Nat.add_sub_cancel' hlt.le]
    next => rfl

/-- Settles O41: the two residues brought back from the quotient ring, and the values at length 0. -/
theorem correctionPolynomials : Obligations.CorrectionPolynomials := by
  intro s h
  refine ⟨rho32_eq_modByMonic_of_mk ?_, fun h0 => ?_, h.zcLength, rho32_eq_modByMonic_of_mk ?_⟩
  · rw [h.ocLength, residue_ocOfLength, map_pow, mk_X]
  · rw [h.ocLength, h.zcLength, h0]
    exact ⟨ocOfLength_zero _, zcOfLength_zero _⟩
  · rw [h.zcLength, residue_not_zcOfLength, map_mul, map_pow, mk_X]
    rfl

end Sys2Proof.Machine
end

section
/-! The machine's invariant through the named operations: one lemma per operation says that it keeps
`MachineInv`, so that a step keeps it by citing what the step is made of. -/

namespace Sys2Proof.Machine

/-- The acceptance checks read the configuration and LENGTH alone (42_window.md R161). -/
theorem acceptCheck_congr {s t : State} (hc : t.cfg = s.cfg) (hl : t.length = s.length) (i : Instr) :
    acceptCheck i t = acceptCheck i s := by
  cases i with
  | wupdate m n => simp only [acceptCheck, updateCheck, hc, hl]
  | _ => rfl

/-- A command in flight stays one that acceptance lets in while PEND, LENGTH and the configuration stay. -/
theorem MachineInv.pending_of_eq {s t : State} (h : MachineInv s) (hc : t.cfg = s.cfg)
    (hl : t.length = s.length) (hp : t.pend = s.pend) (w : Word) (hw : t.pend = some w) :
    ∃ i, decode w = .ok i ∧ acceptCheck i t = none := by
  obtain ⟨i, hd, hi⟩ := h.pending w (hp ▸ hw)
  exact ⟨i, hd, (acceptCheck_congr hc hl i).trans hi⟩

/-- The invariant speaks neither of OPA, OPB, RESULT nor of the host's side, and of the fault record it
needs only that it grows. -/
theorem MachineInv.of_other_fields {s t : State} (h : MachineInv s)
    (ht : t = { s with
      opa := t.opa, opb := t.opb, result := t.result, host := t.host, sched := t.sched
      answer := t.answer, faults := t.faults, resets := t.resets })
    (hf : s.faults <+: t.faults) : MachineInv t := by
  rw [ht]
  exact { h with
    errorIsFault := fun he hn => h.errorIsFault he (List.prefix_nil.mp (hn ▸ hf))
    pending := h.pending_of_eq rfl rfl rfl }

theorem MachineInv.after_takeTurn {s : State} (h : MachineInv s) : MachineInv (takeTurn s) :=
  h.of_other_fields rfl List.prefix_rfl

theorem MachineInv.after_withHost {s : State} (h : MachineInv s) (ops : List HostOp) :
    MachineInv { s with host := ops } := h.of_other_fields rfl List.prefix_rfl

theorem MachineInv.after_answerWith {s : State} (h : MachineInv s) (a : BusAnswer) :
    MachineInv (answerWith a s) := h.of_other_fields rfl List.prefix_rfl

theorem MachineInv.after_setResult {s : State} (h : MachineInv s) (v : Word) : MachineInv (setResult v s) :=
  h.of_other_fields rfl List.prefix_rfl

theorem MachineInv.after_recordUnwritten {s : State} (h : MachineInv s) (used : List Nat) :
    MachineInv (s.recordUnwritten used) := h.of_other_fields rfl (List.prefix_append ..)

/-- The codes of 60_exceptions.md R201 are 1 to 7. -/
theorem ErrorName.code_bounds (e : ErrorName) : 1 ≤ e.code.toNat ∧ e.code.toNat ≤ 7 := by
  cases e <;> decide

theorem MachineInv.after_raiseError {s : State} (h : MachineInv s) (e : ErrorName) (info : Word) :
    MachineInv (raiseError e info s) :=
  { h with
    errorClear := fun he => by cases he
    errorCode := fun _ => by
      rw [raiseError_errcode]
      split
      next he => exact h.errorCode he
      next => exact e.code_bounds
    errorIsFault := fun _ => List.append_ne_nil_of_right_ne_nil _ (List.cons_ne_nil _ _)
    pending := h.pending_of_eq rfl rfl rfl }

theorem MachineInv.after_refuseAccess {s : State} (h : MachineInv s) (e : ErrorName) (addr : Offset)
    (a : BusAnswer) : MachineInv (refuseAccess e addr a s) :=
  (h.after_raiseError e _).after_answerWith a

theorem MachineInv.after_clearError {s : State} (h : MachineInv s) : MachineInv (clearError s) :=
  { h with
    errorClear := fun _ => ⟨rfl, rfl⟩
    errorCode := fun he => by cases he
    errorIsFault := fun he => by cases he
    pending := h.pending_of_eq rfl rfl rfl }

theorem MachineInv.after_complete {s : State} (h : MachineInv s) : MachineInv (complete s) :=
  { h with pending := fun _ hw => by cases hw }

/-- Acceptance lets in only a legal command whose checks pass (30_encoding.md R84). -/
theorem MachineInv.after_accept {s : State} (h : MachineInv s) {w : Word} {i : Instr} (hd : decode w = .ok i)
    (hi : acceptCheck i s = none) : MachineInv (accept w s) :=
  { h with
    pending := fun v hv => by
      cases hv
      exact ⟨i, hd, (acceptCheck_congr (s := s) rfl rfl i).trans hi⟩ }

theorem MachineInv.after_issueCommand {s : State} (h : MachineInv s) (w : Word) :
    MachineInv (issueCommand w s) := by
  rcases issueCommand_cases w s with ⟨e, he⟩ | ⟨i, hd, hi, he⟩ <;> rw [he]
  · exact h.after_raiseError e w
  · exact h.after_accept hd hi

/-- A write of an aligned buffer word lists only buffer bytes (20_memory.md R58, R59). -/
theorem MachineInv.after_writeWord {s : State} (h : MachineInv s) {a : Nat} (w : Word) (ha : a % 4 = 0)
    (hb : isBufferByte s.cfg a = true) : MachineInv { s with mem := s.mem.writeWord a w } :=
  { h with
    memCanonical := Memory.writeWord_wf h.memCanonical a w
    memInBuffers := fun c hc =>
      (Memory.mem_writeWord hc).elim (fun hr => isBufferByte_word ha hb hr.1 hr.2) (h.memInBuffers c)
    pending := h.pending_of_eq rfl rfl rfl }

/-- WRESET's empty window has the corrections and the cache of length 0. -/
theorem MachineInv.after_emptyWindow {s : State} (h : MachineInv s) (hp : s.pend = none) :
    MachineInv (emptyWindow s) :=
  { h with
    cachePower := rfl
    cacheBound := Nat.zero_le _
    zcLength := (zcOfLength_zero _).symm
    ocLength := (ocOfLength_zero _).symm
    pending := fun _ hw => nomatch hp.symm.trans hw }

/-- Settles O46: the corrections and the cache are those of the empty window, and every other clause is
about a field that is empty or 0. -/
theorem resetMeetsTheInvariant : Obligations.ResetMeetsTheInvariant := fun cfg =>
  { memCanonical := Memory.nil_wf
    memInBuffers := fun _ hc => by cases hc
    errorClear := fun _ => ⟨rfl, rfl⟩
    errorCode := fun he => by cases he
    errorIsFault := fun he => by cases he
    cachePower := rfl
    cacheBound := Nat.zero_le _
    zcLength := (zcOfLength_zero _).symm
    ocLength := (ocOfLength_zero _).symm
    pending := fun _ hw => by cases hw }

theorem machineInv_hardwareReset (s : State) : MachineInv (hardwareReset s) :=
  (resetMeetsTheInvariant s.cfg).of_other_fields rfl (List.nil_prefix ..)

/-! ### An update of the window -/

/-- LENGTH after a growth that the overflow check let through (42_window.md R161, R165). -/
theorem length_add_toNat {len : BitVec 64} {k : Nat} (h : len.toNat + k ≤ 2 ^ 64 - 1) :
    (len + BitVec.ofNat 64 k).toNat = len.toNat + k := by
  rw [BitVec.toNat_add, BitVec.toNat_ofNat]
  omega

/-- An update whose preconditions hold keeps the invariant: CORE is not part of it, and a surplus of `k`
bytes takes each correction to that of the grown window (42_window.md R164, R165). -/
theorem MachineInv.after_updateWindow {s : State} (h : MachineInv s) (hp : s.pend = none) {m n : Nat}
    (hc : updateCheck m n s = none) : MachineInv (updateWindow m n s) := by
  obtain ⟨_, hn, _, _, hlen⟩ := (updateCheck_eq_none m n s).mp hc
  have hr := h.after_recordUnwritten (usedOffsets m n)
  by_cases hk : n - m = 0
  · rw [updateWindow_hold m n s hk]
    exact { hr with pending := fun _ hw => nomatch hp.symm.trans hw }
  · rw [updateWindow_grow m n s hk]
    have hx := cachedPower_eq_xpow h.cachePower (n - m)
    exact
      { hr with
        cachePower := hx
        cacheBound := (Nat.sub_le n m).trans hn
        zcLength := by
          simp only [recordUnwritten_cfg, length_add_toNat hlen, h.zcLength, hx]
          exact zcOfLength_add ..
        ocLength := by
          have h0 : s.length = 0#64 ↔ s.length.toNat = 0 := BitVec.toNat_inj.symm
          simp only [recordUnwritten_cfg, length_add_toNat hlen, h.ocLength, hx, h0]
          exact ocOfLength_add _ _ _ hk
        pending := fun _ hw => nomatch hp.symm.trans hw }

/-! ### The agents' steps -/

/-- A command that completes keeps the invariant, for PEND is none by then (10_state.md R37). -/
theorem MachineInv.after_exec {s t : State} {i : Instr} (h : MachineInv s) (hp : s.pend = none)
    (he : exec i s = .next t) : MachineInv t := by
  cases i with
  | nop => cases he; exact h
  | clrerr => cases he; exact h.after_clearError
  | bstep => cases he; exact h.after_setResult _
  | mul8 => cases he; exact h.after_setResult _
  | mul32 => cases he; exact h.after_setResult _
  | wreset => cases he; exact h.after_emptyWindow hp
  | wupdate m n =>
    change execWupdate m n s = .next t at he
    rcases execWupdate_cases m n s with ⟨e, _, hu⟩ | ⟨hc, hu⟩ <;> rw [hu] at he <;> cases he
    · exact h.after_raiseError e _
    · exact h.after_updateWindow hp hc

/-- Every transaction keeps the invariant (20_memory.md R53, R54, R57). -/
theorem MachineInv.after_access {s : State} (h : MachineInv s) (x : Transaction) : MachineInv (access x s) := by
  rcases access_cases x s with ⟨v, used, he⟩ | ⟨e, addr, a, he⟩ | ⟨_, w, he⟩ | ⟨_, w, he⟩ | ⟨_, w, he⟩ |
    ⟨_, addr, w, _, ha, hb, he⟩ <;> rw [he]
  · exact (h.after_recordUnwritten used).after_answerWith _
  · exact h.after_refuseAccess e addr a
  · exact (h.after_issueCommand w).after_answerWith _
  · exact h.of_other_fields rfl List.prefix_rfl
  · exact h.of_other_fields rfl List.prefix_rfl
  · exact (h.after_writeWord w ha hb).after_answerWith _

theorem MachineInv.after_hostStep {s : State} (h : MachineInv s) : MachineInv (hostStep s) := by
  rcases hostStep_cases s with ⟨_, he⟩ | ⟨x, rest, _, he⟩ | ⟨addr, mask, value, rest, _, he⟩ <;> rw [he]
  · exact h
  · exact (h.after_access x).after_withHost rest
  · exact (h.after_access _).after_withHost _

/-- Settles O47, by the agent that moves and what it does. -/
theorem everyStepKeepsTheInvariant : Obligations.EveryStepKeepsTheInvariant := by
  intro s t h hstep
  rcases step_cases hstep with ⟨_, rfl⟩ | ⟨_, rfl⟩ | ⟨_, _, rfl⟩ | ⟨_, w, i, _, _, he⟩ | ⟨_, w, e, _, _, rfl⟩
  · exact h.after_takeTurn.after_hostStep
  · exact machineInv_hardwareReset _
  · exact h.after_takeTurn
  · exact h.after_takeTurn.after_complete.after_exec (complete_pend _) he
  · exact h.after_takeTurn.after_complete.after_raiseError _ w

end Sys2Proof.Machine
end

section
/-! Which steps may touch which registers (10_state.md R22 to R28): what a transaction, a host step and
each command leave unchanged, and a step told apart by the command it completes. -/

namespace Sys2Proof.Machine
open Claims (sameWindow)

/-- A transaction changes the operands, the error fields, PEND, the buffers, the answer and the fault
record at most. -/
theorem access_frame (x : Transaction) (s : State) :
    access x s =
      { s with
        opa := (access x s).opa, opb := (access x s).opb, err := (access x s).err
        errcode := (access x s).errcode, errinfo := (access x s).errinfo, pend := (access x s).pend
        mem := (access x s).mem, answer := (access x s).answer, faults := (access x s).faults } := by
  rcases access_cases x s with ⟨v, used, h⟩ | ⟨e, addr, a, h⟩ | ⟨_, w, h⟩ | ⟨_, w, h⟩ | ⟨_, w, h⟩ |
    ⟨_, addr, w, _, _, _, h⟩
  case inr.inr.inl =>
    rcases issueCommand_cases w s with ⟨e, hi⟩ | ⟨i, _, _, hi⟩ <;> rw [h, hi] <;> rfl
  all_goals rw [h]; rfl

/-- While a command is in flight no transaction changes an operand (20_memory.md R57). -/
theorem access_operands {s : State} (hp : s.pend ≠ none) (x : Transaction) :
    (access x s).opa = s.opa ∧ (access x s).opb = s.opb := by
  rcases access_cases x s with ⟨v, used, h⟩ | ⟨e, addr, a, h⟩ | ⟨hn, _⟩ | ⟨hn, _⟩ | ⟨hn, _⟩ | ⟨hn, _⟩
  · rw [h]; exact ⟨rfl, rfl⟩
  · rw [h]; exact ⟨rfl, rfl⟩
  all_goals exact absurd hn hp

/-- The host's step is one transaction and a change of its operations, or nothing. -/
theorem hostStep_eq_access (s : State) :
    hostStep s = s ∨ ∃ x ops, hostStep s = { access x s with host := ops } := by
  rcases hostStep_cases s with ⟨_, h⟩ | ⟨x, rest, _, h⟩ | ⟨addr, mask, value, rest, _, h⟩
  · exact .inl h
  · exact .inr ⟨x, rest, h⟩
  · exact .inr ⟨_, _, h⟩

/-- The host changes neither the window, its cache nor RESULT. -/
theorem hostStep_keeps_window (s : State) :
    sameWindow s (hostStep s) ∧ (hostStep s).result = s.result := by
  rcases hostStep_eq_access s with h | ⟨x, ops, h⟩
  · rw [h]; exact ⟨⟨rfl, rfl, rfl, rfl, rfl, rfl, rfl⟩, rfl⟩
  · rw [h, access_frame]; exact ⟨⟨rfl, rfl, rfl, rfl, rfl, rfl, rfl⟩, rfl⟩

theorem hostStep_operands {s : State} (hp : s.pend ≠ none) :
    (hostStep s).opa = s.opa ∧ (hostStep s).opb = s.opb := by
  rcases hostStep_eq_access s with h | ⟨x, ops, h⟩
  · rw [h]; exact ⟨rfl, rfl⟩
  · rw [h]; exact access_operands hp x

/-- BSTEP, MUL8 and MUL32 store a word in RESULT (10_state.md R24). -/
theorem exec_arithmetic {i : Instr} (hi : i ∈ [Instr.bstep, .mul8, .mul32]) (s : State) :
    ∃ v, exec i s = .next (setResult v s) := by
  simp only [List.mem_cons, List.not_mem_nil, or_false] at hi
  rcases hi with rfl | rfl | rfl <;> exact ⟨_, rfl⟩

/-- Every other command leaves RESULT (10_state.md R24). -/
theorem exec_result {i : Instr} {s t : State} (h : exec i s = .next t)
    (hi : i ∉ [Instr.bstep, .mul8, .mul32]) : t.result = s.result := by
  cases i with
  | nop => cases h; rfl
  | clrerr => cases h; rfl
  | wreset => cases h; rfl
  | wupdate m n =>
    change execWupdate m n s = .next t at h
    rcases execWupdate_cases m n s with ⟨e, _, hu⟩ | ⟨_, hu⟩ <;> rw [hu] at h <;> cases h
    · rfl
    · rw [updateWindow_frame]
  | bstep => simp at hi
  | mul8 => simp at hi
  | mul32 => simp at hi

/-- Every command but WRESET and WUPDATE leaves the window and its cache (10_state.md R25 to R28). -/
theorem exec_keeps_window {i : Instr} {s t : State} (h : exec i s = .next t) (hr : i ≠ .wreset)
    (hu : ∀ m n, i ≠ .wupdate m n) : sameWindow s t := by
  cases i with
  | wreset => exact absurd rfl hr
  | wupdate m n => exact absurd rfl (hu m n)
  | _ => cases h; exact ⟨rfl, rfl, rfl, rfl, rfl, rfl, rfl⟩

/-! ### The command a step completes -/

theorem completing_eq_some (s : State) (i : Instr) :
    completing s = some i ↔ nextAgent s = .engine ∧ ∃ w, s.pend = some w ∧ decode w = .ok i := by
  unfold completing
  split
  next w ha hp => cases hd : decode w <;> simp [ha, hp, hd, Except.toOption]
  next hne => exact ⟨nofun, fun ⟨ha, w, hp, _⟩ => absurd hp (hne w ha)⟩

/-- With a word in PEND that decodes, the engine's step is exec of its command, with PEND cleared
(10_state.md R37). -/
theorem step_completes {s : State} {w : Word} {i : Instr} (ha : nextAgent s = .engine)
    (hp : s.pend = some w) (hd : decode w = .ok i) : step s = exec i (complete (takeTurn s)) := by
  rw [step_engine ha, engineStep, takeTurn_pend, hp]
  simp only [hd]

theorem step_of_completing {s : State} {i : Instr} (hc : completing s = some i) :
    step s = exec i (complete (takeTurn s)) := by
  obtain ⟨ha, w, hp, hd⟩ := (completing_eq_some s i).mp hc
  exact step_completes ha hp hd

/-- A step that completes no command and is no hardware reset leaves the window, its cache and RESULT. -/
theorem step_keeps_window {s t : State} (h : step s = .next t) (hr : nextAgent s ≠ .reset)
    (hc : completing s = none) : sameWindow s t ∧ t.result = s.result := by
  rcases step_cases h with ⟨_, rfl⟩ | ⟨ha, _⟩ | ⟨_, _, rfl⟩ | ⟨ha, w, i, hp, hd, _⟩ | ⟨_, w, e, _, _, rfl⟩
  · exact hostStep_keeps_window (takeTurn s)
  · exact absurd ha hr
  · exact ⟨⟨rfl, rfl, rfl, rfl, rfl, rfl, rfl⟩, rfl⟩
  · rw [(completing_eq_some s i).mpr ⟨ha, w, hp, hd⟩] at hc
    cases hc
  · exact ⟨⟨rfl, rfl, rfl, rfl, rfl, rfl, rfl⟩, rfl⟩

theorem step_result {s t : State} (h : step s = .next t) (hr : nextAgent s ≠ .reset)
    (hc : completing s ∉ [some Instr.bstep, some .mul8, some .mul32]) : t.result = s.result := by
  cases hi : completing s with
  | none => exact (step_keeps_window h hr hi).2
  | some i =>
    rw [step_of_completing hi] at h
    exact (exec_result h fun hm => hc (hi ▸ List.mem_map_of_mem (f := some) hm) :)

/-- Only the host's step with no command in flight changes an operand (10_state.md R22, R23). -/
theorem step_operands {s t : State} (h : step s = .next t) (hr : nextAgent s ≠ .reset)
    (hh : nextAgent s = .host → s.pend ≠ none) : t.opa = s.opa ∧ t.opb = s.opb := by
  rcases step_cases h with ⟨ha, rfl⟩ | ⟨ha, _⟩ | ⟨_, _, rfl⟩ | ⟨_, w, i, _, _, he⟩ | ⟨_, w, e, _, _, rfl⟩
  · exact hostStep_operands (s := takeTurn s) (hh ha)
  · exact absurd ha hr
  · exact ⟨rfl, rfl⟩
  · obtain ⟨_, hopa, hopb, _⟩ := exec_frame he
    exact ⟨hopa, hopb⟩
  · exact ⟨rfl, rfl⟩

theorem step_window {s t : State} (h : step s = .next t) (hr : nextAgent s ≠ .reset)
    (hw : completing s ≠ some .wreset) (hu : ∀ m n, completing s ≠ some (.wupdate m n)) :
    sameWindow s t := by
  cases hi : completing s with
  | none => exact (step_keeps_window h hr hi).1
  | some i =>
    rw [step_of_completing hi] at h
    exact (exec_keeps_window h (fun he => hw (he ▸ hi)) fun m n he => hu m n (he ▸ hi) :)

/-- Settles O50: a step of another kind than the one named leaves the register. -/
theorem whoWritesEachRegister : Obligations.WhoWritesEachRegister := by
  intro s t h hr
  refine ⟨fun hne => ?_, fun hne => ?_, fun hne => ?_⟩
  · by_contra hc
    exact hne (step_result h hr hc)
  · by_contra hc
    obtain ⟨ha, hb⟩ := step_operands h hr fun hh hp => hc ⟨hh, hp⟩
    exact hne.elim (· ha) (· hb)
  · by_contra hc
    obtain ⟨hw, hu⟩ := not_or.mp hc
    obtain ⟨_, hlen, hcore, hzc, hoc, hxpc, hxpcN⟩ := step_window h hr hw fun m n he => hu ⟨m, n, he⟩
    simp [hlen, hcore, hzc, hoc, hxpc, hxpcN] at hne

end Sys2Proof.Machine
end

section
/-! The ghost window (10_state.md R38): how Unmasked changes when the window slides and grows
(42_window.md R163, R165), and that every step which keeps the caller contract tracks it. -/

namespace Sys2Proof.Machine

/-- The first byte of a message of L bytes has weight x^(32 + 8(L−1)) in Unmasked (00_scope.md R13). -/
theorem residue_unmasked_cons (p : Word) (o : Byte) (rest : List Byte) :
    residue p (unmasked p (o :: rest))
      = residueX p ^ (32 + 8 * rest.length) * residue8 p o + residue p (unmasked p rest) := by
  induction rest using List.reverseRecOn with
  | nil =>
    rw [show unmasked p [o] = crcStep p 0#32 o from rfl, residue_crcStep, residue_zero, unmasked_nil,
      residue_zero, List.length_nil]
    ring
  | append_singleton rest b ih =>
    rw [← List.cons_append, unmasked_append_singleton, unmasked_append_singleton, residue_crcStep,
      residue_crcStep, ih, List.length_append, List.length_singleton]
    ring

/-- XOR with Mul8(OC, o) takes the window's first byte `o` out of CORE (42_window.md R163). -/
theorem unmasked_cons_xor_mul8 (p : Word) (o : Byte) (rest : List Byte) :
    unmasked p (o :: rest) ^^^ mul8 p (ocOfLength p (rest.length + 1)) o = unmasked p rest := by
  have h : unmasked p (o :: rest) = unmasked p rest ^^^ mul8 p (ocOfLength p (rest.length + 1)) o := by
    apply residue_injective (p := p)
    rw [residue_unmasked_cons, residue_xor, residue_mul8, residue_ocOfLength, add_comm,
      max_eq_left (Nat.le_add_left 1 _), Nat.add_sub_cancel]
  rw [h, BitVec.xor_assoc, BitVec.xor_self, BitVec.xor_zero]

/-- Step 1 of R162 slides the window: each pair drops its first byte and appends a new one, with the
length, and so OC, unchanged (42_window.md R163). -/
theorem slideCore_unmasked (p : Word) (pairs : List (Byte × Byte)) (rest : List Byte) :
    slideCore p (ocOfLength p (pairs.length + rest.length)) pairs
        (unmasked p (pairs.map Prod.fst ++ rest))
      = unmasked p (rest ++ pairs.map Prod.snd) := by
  induction pairs generalizing rest with
  | nil => rw [List.map_nil, List.map_nil, List.append_nil]; rfl
  | cons q pairs ih =>
    have hoc : (q :: pairs).length + rest.length = (pairs.map Prod.fst ++ rest).length + 1 := by
      simp only [List.length_cons, List.length_append, List.length_map]; omega
    have hlen : (pairs.map Prod.fst ++ rest).length + 1 = pairs.length + (rest ++ [q.2]).length := by
      simp only [List.length_append, List.length_map, List.length_singleton]; omega
    calc slideCore p (ocOfLength p ((q :: pairs).length + rest.length)) (q :: pairs)
          (unmasked p ((q :: pairs).map Prod.fst ++ rest))
        = slideCore p (ocOfLength p ((q :: pairs).length + rest.length)) pairs
            (crcStep p (unmasked p (q.1 :: (pairs.map Prod.fst ++ rest))
              ^^^ mul8 p (ocOfLength p ((q :: pairs).length + rest.length)) q.1) q.2) := rfl
      _ = slideCore p (ocOfLength p (pairs.length + (rest ++ [q.2]).length)) pairs
            (unmasked p (pairs.map Prod.fst ++ (rest ++ [q.2]))) := by
          rw [hoc, unmasked_cons_xor_mul8, ← unmasked_append_singleton, hlen, List.append_assoc]
      _ = unmasked p (rest ++ (q :: pairs).map Prod.snd) := by
          rw [ih, List.append_assoc]; rfl

/-- Folding the surplus bytes in appends them to the window (42_window.md R164). -/
theorem extendCore_unmasked (p : Word) (bytes win : List Byte) :
    extendCore p bytes (unmasked p win) = unmasked p (win ++ bytes) :=
  List.foldl_append.symm

/-- With the contract kept, CORE after an update is Unmasked of the window with its first bytes dropped
and the new ones appended (42_window.md R165). -/
theorem updatedCore_unmasked {s : State} {win : List Byte} {m n : Nat}
    (hcore : s.core = unmasked s.cfg.polyRev win)
    (hoc : s.oc = ocOfLength s.cfg.polyRev win.length) (hold : oldBytes s m = win.take m) (hmn : m ≤ n) :
    updatedCore m n s = unmasked s.cfg.polyRev (win.drop m ++ newBytes s n) := by
  have hm : (oldBytes s m).length = m := by simp [oldBytes]
  have hn : (newBytes s n).length = n := by simp [newBytes]
  have hfst : ((oldBytes s m).zip (newBytes s n)).map Prod.fst = oldBytes s m :=
    List.map_fst_zip (by omega)
  have hsnd : ((oldBytes s m).zip (newBytes s n)).map Prod.snd = (newBytes s n).take m := by
    rw [List.zip_eq_zip_take_min, hm, hn, Nat.min_eq_left hmn]
    exact List.map_snd_zip (by simp only [List.length_take]; omega)
  have hwin : ((oldBytes s m).zip (newBytes s n)).map Prod.fst ++ win.drop m = win := by
    rw [hfst, hold, List.take_append_drop]
  have hlen : ((oldBytes s m).zip (newBytes s n)).length + (win.drop m).length = win.length := by
    rw [← List.length_map (f := Prod.fst), ← List.length_append, hwin]
  have hslide := slideCore_unmasked s.cfg.polyRev ((oldBytes s m).zip (newBytes s n)) (win.drop m)
  rw [hwin, hlen, hsnd, ← hoc, ← hcore] at hslide
  rw [updatedCore, hslide, extendCore_unmasked, List.append_assoc, List.take_append_drop]

/-- LENGTH after an update whose preconditions hold (42_window.md R165). -/
theorem updateWindow_length_toNat {s : State} {m n : Nat} (hc : updateCheck m n s = none) :
    (updateWindow m n s).length.toNat = s.length.toNat + (n - m) := by
  obtain ⟨_, _, _, _, hlen⟩ := (updateCheck_eq_none m n s).mp hc
  by_cases hk : n - m = 0
  · rw [updateWindow_hold m n s hk, hk]; rfl
  · rw [updateWindow_grow m n s hk]; exact length_add_toNat hlen

/-- Where the window and its configuration are unchanged, it holds the same bytes. -/
theorem Holds.of_sameWindow {win : List Byte} {s t : State} (h : Holds win s)
    (hs : Claims.sameWindow s t) : Holds win t := by
  obtain ⟨hcfg, hlen, hcore, _⟩ := hs
  rw [Holds, ← hcfg, ← hlen, ← hcore]
  exact h

theorem holds_nil {s : State} (hl : s.length = 0#64) (hc : s.core = 0#32) : Holds [] s :=
  ⟨by rw [hl]; rfl, by rw [hc, unmasked_nil]⟩

/-- The command that a step completes has passed its acceptance checks (30_encoding.md R84). -/
theorem MachineInv.acceptCheck_completing {s : State} (hs : MachineInv s) {i : Instr}
    (hc : completing s = some i) : acceptCheck i (complete (takeTurn s)) = none := by
  obtain ⟨_, w, hp, hd⟩ := (completing_eq_some s i).mp hc
  obtain ⟨j, hj, hcheck⟩ := hs.pending w hp
  obtain rfl : i = j := Except.ok.inj (hd.symm.trans hj)
  exact (acceptCheck_congr rfl rfl i).trans hcheck

/-- An update that keeps the contract leaves the window of R38. -/
theorem Holds.after_updateWindow {win : List Byte} {s : State} {m n : Nat} (h : Holds win s)
    (hoc : s.oc = ocOfLength s.cfg.polyRev s.length.toNat) (hc : updateCheck m n s = none)
    (hold : oldBytes s m = win.take m) : Holds (win.drop m ++ newBytes s n) (updateWindow m n s) := by
  obtain ⟨hlen, hcore⟩ := h
  obtain ⟨_, _, hm, hmn, _⟩ := (updateCheck_eq_none m n s).mp hc
  refine ⟨?_, ?_⟩
  · rw [updateWindow_length_toNat hc, List.length_append, List.length_drop, newBytes, List.length_map,
      List.length_range]
    omega
  · rw [updateWindow_core, updatedCore_unmasked hcore (hlen ▸ hoc) hold hmn, updateWindow_frame]

/-- A command that keeps the contract leaves the window that R38 says. -/
theorem Holds.after_exec {win : List Byte} {s t : State} {i : Instr} (h : Holds win s) (hs : MachineInv s)
    (hc : acceptCheck i s = none) (hk : contractOf i win s) (he : exec i s = .next t) :
    Holds (windowAfter i win s) t := by
  cases i with
  | wreset => cases he; exact holds_nil rfl rfl
  | wupdate m n =>
    change updateCheck m n s = none at hc
    change execWupdate m n s = .next t at he
    rcases execWupdate_cases m n s with ⟨e, hn, _⟩ | ⟨_, hu⟩
    · rw [hc] at hn; cases hn
    · rw [hu] at he; cases he; exact h.after_updateWindow hs.ocLength hc hk
  | _ => exact h.of_sameWindow (exec_keeps_window he (by simp) (by simp))

theorem ghostStep_of_none {s : State} (win : List Byte) (hr : nextAgent s ≠ .reset)
    (hc : completing s = none) : ghostStep win s = win := by
  unfold ghostStep
  rw [hc]
  cases ha : nextAgent s with
  | reset => exact absurd ha hr
  | _ => rfl

theorem ghostStep_of_completing {s : State} {i : Instr} (win : List Byte) (hc : completing s = some i) :
    ghostStep win s = windowAfter i win s := by
  unfold ghostStep
  rw [hc, ((completing_eq_some s i).mp hc).1]

theorem contractStep_of_completing {s : State} {i : Instr} (win : List Byte) (hc : completing s = some i) :
    contractStep win s = contractOf i win s := by
  unfold contractStep
  rw [hc]

/-- The window after a command depends on the buffers alone, as the contract does, and they are the same
when the command comes to run. -/
theorem windowAfter_complete_takeTurn (i : Instr) (win : List Byte) (s : State) :
    windowAfter i win (complete (takeTurn s)) = windowAfter i win s := by
  cases i <;> rfl

theorem contractOf_complete_takeTurn (i : Instr) (win : List Byte) (s : State) :
    contractOf i win (complete (takeTurn s)) = contractOf i win s := by
  cases i <;> rfl

/-- Settles O42: a hardware reset empties the window, a step that completes no command leaves it, and a
command that completes has passed the acceptance checks, by the invariant. -/
theorem stepTracksTheGhostWindow : Obligations.StepTracksTheGhostWindow := by
  intro win s t hs h hk hstep
  by_cases hr : nextAgent s = .reset
  · rw [step_reset hr] at hstep
    cases hstep
    rw [ghostStep, hr]
    exact holds_nil rfl rfl
  cases hc : completing s with
  | none =>
    rw [ghostStep_of_none win hr hc]
    exact h.of_sameWindow (step_keeps_window hstep hr hc).1
  | some i =>
    rw [step_of_completing hc] at hstep
    rw [contractStep_of_completing win hc, ← contractOf_complete_takeTurn] at hk
    rw [ghostStep_of_completing win hc, ← windowAfter_complete_takeTurn]
    exact Holds.after_exec (s := complete (takeTurn s)) h hs.after_takeTurn.after_complete
      (hs.acceptCheck_completing hc) hk hstep

end Sys2Proof.Machine
end

section
/-! Reads of registers and of unwritten buffer bytes (10_state.md R29, R34), the completion step (R37)
and the frame of the arithmetic commands (R24). -/

namespace Sys2Proof.Machine
open Claims

/-- The host's turn with a transaction to make is that transaction. -/
theorem step_hostTurn (q : List Agent) (r : List HostOp) (x : Transaction) (s : State) :
    step (hostTurn q r x s) = .next (access x { s with sched := q, host := r }) := rfl

theorem offset_wholeWord (r : RegName) : wholeWord r.offset .four = true := by
  cases r <;> rfl

/-- A whole-word read of a register answers "host read returns" of 20_memory.md R53, in every state, and
does nothing else. -/
theorem readAnswers_register (r : RegName) (s : State) : readAnswers r.offset (readRegister r s) s := by
  intro q ops
  rw [step_hostTurn]
  change Host.Outcome.next (hostRead r.offset .four _) = _
  rw [hostRead_reg (offset_wholeWord r) (regionOf_reg _ r)]
  cases r <;> rfl

/-- SUM reads CORE ^ ZC (10_state.md R29). -/
theorem readAnswers_sum {s : State} {v : Word} (h : s.core ^^^ s.zc = v) : readAnswers 0x014#12 v s :=
  h ▸ readAnswers_register .sum s

/-- Step of no value and a zero byte is 0. -/
theorem crcStep_zero_zero (p : Word) : crcStep p 0#32 0#8 = 0#32 :=
  residue_injective (p := p) (by rw [residue_crcStep_zero, residue_zero, mul_zero])

/-- Unmasked of zero bytes alone is 0, however many they are. -/
theorem unmasked_zeros (p : Word) (n : Nat) : unmasked p (List.replicate n 0#8) = 0#32 := by
  induction n with
  | zero => rfl
  | succ n ih => rw [List.replicate_succ', unmasked_append_singleton, ih, crcStep_zero_zero]

/-- Settles O18: SUM's read at any state, at CORE = ZC = 0, and at CORE = 0. -/
theorem sumRead : Obligations.SumRead := by
  refine ⟨fun _ => readAnswers_sum rfl, fun _ => ⟨readAnswers_sum BitVec.xor_self, BitVec.xor_self⟩,
    fun s ⟨_, hcore⟩ => readAnswers_sum ?_⟩
  rw [hcore, unmasked_zeros, BitVec.zero_xor]

/-! ### Unwritten bytes -/

/-- A fault is recorded for each unwritten byte among those used (10_state.md R34, log 4). -/
theorem mem_recordUnwritten {s : State} {used : List Nat} {a : Nat} (ha : a ∈ used)
    (hu : s.mem.read a = none) : Fault.unwrittenByte a ∈ (s.recordUnwritten used).faults := by
  have hw : s.unwritten a = true := by rw [State.unwritten, hu]; rfl
  exact List.mem_append_right _ (List.mem_map_of_mem (List.mem_filter.mpr ⟨ha, hw⟩))

/-- Use of written bytes alone records nothing (10_state.md R34). -/
theorem recordUnwritten_faults_of_written {s : State} {used : List Nat}
    (h : ∀ a ∈ used, s.mem.read a ≠ none) : (s.recordUnwritten used).faults = s.faults := by
  have hf : used.filter s.unwritten = [] := by
    refine List.filter_eq_nil_iff.mpr fun a ha => ?_
    rw [State.unwritten, Option.isNone_iff_eq_none]
    exact h a ha
  rw [State.recordUnwritten, hf, List.map_nil, List.append_nil]

/-- A read of a buffer word uses its four bytes (20_memory.md R59). -/
theorem access_buffer_read {s : State} {addr : Offset} (h : isBufferWord s.cfg addr) :
    access (.read addr .four) s = answerWith (.read (s.wordAt addr.toNat) .ok)
      (s.recordUnwritten [addr.toNat, addr.toNat + 1, addr.toNat + 2, addr.toNat + 3]) :=
  hostRead_buffer ((wholeWord_four addr).mpr h.1)
    (regionOf_buffer ((isBufferByte_iff _ _).mpr h.2))

/-- A WUPDATE whose preconditions hold runs (42_window.md R161, R162). -/
theorem exec_wupdate_of_ready {s : State} {m n : Nat} (h : updateReady m n s) :
    exec (.wupdate m n) s = .next (updateWindow m n s) := by
  have hc : updateCheck m n s = none := (updateCheck_eq_none m n s).mpr h
  change execWupdate m n s = _
  rw [execWupdate, hc]

theorem mem_wordOffsets (b a : Nat) : a ∈ [b, b + 1, b + 2, b + 3] ↔ ∃ j < 4, a = b + j := by
  simp only [List.mem_cons, List.not_mem_nil, or_false]
  refine ⟨fun h => ⟨a - b, by omega, by omega⟩, ?_⟩
  rintro ⟨j, hj, rfl⟩
  omega

theorem mem_usedOffsets (m n a : Nat) :
    a ∈ usedOffsets m n ↔ (∃ i < m, a = 0x400 + i) ∨ ∃ i < n, a = 0x800 + i := by
  simp [usedOffsets, oldBase, newBase, eq_comm]

/-- Settles O14: both uses are `recordUnwritten` of the bytes used. -/
theorem unwrittenBytesAreRecordedFaults : Obligations.UnwrittenBytesAreRecordedFaults := by
  refine ⟨fun s q r addr h => ?_, fun s m n h => ?_⟩
  · refine ⟨_, (step_hostTurn q r _ s).trans (congrArg _ (access_buffer_read h)), fun j hj hu => ?_,
      fun hw => ?_⟩
    · exact mem_recordUnwritten ((mem_wordOffsets ..).mpr ⟨j, hj, rfl⟩) hu
    · refine recordUnwritten_faults_of_written fun a ha => ?_
      obtain ⟨j, hj, rfl⟩ := (mem_wordOffsets ..).mp ha
      exact hw j hj
  · have hf : (updateWindow m n s).faults = (s.recordUnwritten (usedOffsets m n)).faults :=
      updateWindow_faults m n s
    refine ⟨_, exec_wupdate_of_ready h, fun i hi hu => ?_, fun i hi hu => ?_, fun ⟨hold, hnew⟩ => ?_⟩ <;>
      rw [hf]
    · exact mem_recordUnwritten ((mem_usedOffsets ..).mpr (.inl ⟨i, hi, rfl⟩)) hu
    · exact mem_recordUnwritten ((mem_usedOffsets ..).mpr (.inr ⟨i, hi, rfl⟩)) hu
    · refine recordUnwritten_faults_of_written fun a ha => ?_
      rcases (mem_usedOffsets ..).mp ha with ⟨i, hi, rfl⟩ | ⟨i, hi, rfl⟩
      · exact hold i hi
      · exact hnew i hi

/-! ### The completion step and the arithmetic commands -/

/-- Settles O5: its three forms are `step_completes` at states that differ in the schedule. -/
theorem stepCompletesTheCommandInFlight : Obligations.StepCompletesTheCommandInFlight := by
  refine ⟨fun s w i q hd => step_completes rfl rfl hd, fun s w i hd => step_completes rfl rfl hd,
    fun s w i hd => ?_⟩
  have hw : BitVec.ofNat 32 (w.toNat % 2 ^ 32) = w := by
    rw [Nat.mod_eq_of_lt w.isLt, BitVec.ofNat_toNat, BitVec.setWidth_eq]
  rw [State.withFetchWord, hw]
  exact step_completes rfl rfl hd

/-- Settles O44: the three commands store a word in RESULT, which `setResult` does and nothing else. -/
theorem arithmeticFrame : Obligations.ArithmeticFrame := by
  intro i hi s t h
  obtain ⟨v, hv⟩ := exec_arithmetic hi s
  rw [hv] at h
  cases h
  simp

end Sys2Proof.Machine
end

section
/-! The address map (20_memory.md R53, R54, R56): what the host's turn answers and leaves for a refused
access, a performed write, a write while a command is in flight, and a read of a buffer word. -/

namespace Sys2Proof.Machine
open Claims

/-! ### Refused accesses -/

theorem readIsBad_of_not_wholeWord {addr : Offset} {size : AccessSize} (s : State)
    (h : wholeWord addr size = false) : readIsBad addr size s :=
  fun q r => (step_hostTurn q r _ s).trans (congrArg _ (hostRead_bad _ h))

theorem readIsBad_of_reserved {addr : Offset} {s : State} (h : wholeWord addr .four = true)
    (hr : regionOf s.cfg addr = .reserved) : readIsBad addr .four s :=
  fun q r => (step_hostTurn q r _ s).trans
    (congrArg _ (hostRead_reserved (s := { s with sched := q, host := r }) h hr))

theorem writeIsBad_of_not_wholeWord {addr : Offset} {size : AccessSize} (s : State)
    (h : wholeWord addr size = false) : writeIsBad addr size s :=
  fun q r w => (step_hostTurn q r _ s).trans (congrArg _ (hostWrite_bad w _ h))

/-- A write that the address map gives no effect is BAD_ACCESS (R56). -/
theorem writeIsBad_of_no_effect {addr : Offset} {s : State} (size : AccessSize)
    (h : ∀ w t, writeEffect (regionOf s.cfg addr) addr w t = none) : writeIsBad addr size s :=
  fun q r w => (step_hostTurn q r _ s).trans
    (congrArg _ (hostWrite_none (s := { s with sched := q, host := r }) (h w _)))

/-- Settles O11: a narrow or misaligned access is not a whole word, which both directions refuse. -/
theorem narrowOrMisalignedIsBadAccess : Obligations.NarrowOrMisalignedIsBadAccess := fun s _ _ h =>
  ⟨readIsBad_of_not_wholeWord s (wholeWord_eq_false h), writeIsBad_of_not_wholeWord s (wholeWord_eq_false h)⟩

/-! ### The address map -/

/-- The reserved ranges of R53 lie above the registers and outside both buffers. -/
theorem regionOf_reserved {cfg : Config} {addr : Offset} (h : isReserved cfg addr) :
    regionOf cfg addr = .reserved := by
  have hd := bufDepth_bounds cfg
  have hb : ¬ isBufferByte cfg addr.toNat = true := by
    rw [isBufferByte_iff]
    unfold isReserved at h
    omega
  rw [regionOf_above cfg addr (by unfold isReserved at h; omega), if_neg hb]

theorem regionOf_bufferWord {cfg : Config} {addr : Offset} (h : isBufferWord cfg addr) :
    regionOf cfg addr = .buffer := regionOf_buffer ((isBufferByte_iff _ _).mpr h.2)

theorem wholeWord_bufferWord {cfg : Config} {addr : Offset} (h : isBufferWord cfg addr) :
    wholeWord addr .four = true := (wholeWord_four addr).mpr h.1

theorem regionOf_eq_reg {cfg : Config} {addr : Offset} {r : RegName} (h : regionOf cfg addr = .reg r) :
    addr = r.offset := by
  unfold regionOf at h
  split at h
  next r' hf =>
    cases h
    exact (of_decide_eq_true (List.find?_some (p := fun n : RegName => decide (n.offset = addr)) hf)).symm
  next => split at h <;> cases h

/-- STATUS from its bit fields is STATUS from its weights (10_state.md R30). -/
theorem statusWord_eq_statusValue (s : State) : statusWord s = statusValue s := by
  have hfields : ∀ (c : BitVec 4) (e b : Bool),
      0#24 ++ c ++ 0#2 ++ BitVec.ofBool e ++ BitVec.ofBool b
        = (if b then 1#32 else 0#32) ||| (if e then 2#32 else 0#32) ||| (c.setWidth 32 <<< 4) := by decide
  rw [statusWord, hfields, statusValue, State.busy]
  cases s.pend <;> rfl

/-- Every register but CMD, OPA and OPB may only be read (R53). -/
theorem writeIsBad_register {r : RegName} (hr : r ∉ [RegName.cmd, .opa, .opb]) (s : State) :
    writeIsBad r.offset .four s := by
  refine writeIsBad_of_no_effect .four fun w t => ?_
  rw [regionOf_reg]
  cases r
  case cmd | opa | opb => exact absurd (by decide) hr
  all_goals rfl

theorem mem_readOnlyOffsets {addr : Offset} (h : addr ∈ readOnlyOffsets) :
    ∃ r : RegName, r ∉ [RegName.cmd, .opa, .opb] ∧ addr = r.offset := by
  have hl : readOnlyOffsets = (RegName.all.filter (· ∉ [RegName.cmd, .opa, .opb])).map RegName.offset := rfl
  rw [hl, List.mem_map] at h
  obtain ⟨r, hr, rfl⟩ := h
  exact ⟨r, of_decide_eq_true (List.mem_filter.mp hr).2, rfl⟩

/-! ### Performed and dropped writes -/

/-- Issuing a command depends neither on the schedule nor on what the host does next, and keeps both. -/
theorem issueCommand_hostTurn (w : Word) (s : State) (q : List Agent) (r : List HostOp) :
    issueCommand w { s with sched := q, host := r } = { issueCommand w s with sched := q, host := r } := by
  unfold issueCommand
  cases decode w with
  | error e => rfl
  | ok i =>
    simp only [acceptCheck_congr (s := s) (t := { s with sched := q, host := r }) rfl rfl]
    cases acceptCheck i s <;> rfl

theorem writeEffect_hostTurn {region : Region} {addr : Offset} {w : Word} {s t : State}
    (h : writeEffect region addr w s = some t) (q : List Agent) (r : List HostOp) :
    writeEffect region addr w { s with sched := q, host := r } = some { t with sched := q, host := r } := by
  cases region with
  | reg n =>
    cases n
    case cmd => cases h; exact congrArg some (issueCommand_hostTurn w s q r)
    case opa | opb => cases h; rfl
    all_goals cases h
  | buffer => cases h; rfl
  | reserved => cases h

/-- With no command in flight a write does what the address map says and nothing else (R53). -/
theorem step_write_performed {addr : Offset} {w : Word} {s t : State} (hw : wholeWord addr .four = true)
    (he : writeEffect (regionOf s.cfg addr) addr w s = some t) (hp : s.pend = none) (q : List Agent)
    (r : List HostOp) :
    step (hostTurn q r (.write addr .four w) s) = .next (answered q r (.write .ok) t) := by
  rw [step_hostTurn]
  exact congrArg _ (hostWrite_ok (s := { s with sched := q, host := r }) hw (writeEffect_hostTurn he q r)
    (not_busy_of_pend hp))

theorem step_register_write_performed (n : RegName) {w : Word} {s t : State}
    (he : writeEffect (.reg n) n.offset w s = some t) (hp : s.pend = none) (q : List Agent) (r : List HostOp) :
    step (hostTurn q r (.write n.offset .four w) s) = .next (answered q r (.write .ok) t) :=
  step_write_performed (offset_wholeWord n) (by rw [regionOf_reg, he]) hp q r

theorem step_buffer_write_performed {addr : Offset} {s : State} (h : isBufferWord s.cfg addr)
    (hp : s.pend = none) (w : Word) (q : List Agent) (r : List HostOp) :
    step (hostTurn q r (.write addr .four w) s)
      = .next (answered q r (.write .ok) { s with mem := s.mem.writeWord addr.toNat w }) :=
  step_write_performed (wholeWord_bufferWord h) (by rw [regionOf_bufferWord h]; rfl) hp q r

/-- While a command is in flight a write that would have an effect is dropped with BUSY_VIOLATION (R57). -/
theorem step_write_busy {addr : Offset} {w : Word} {s t : State} (hw : wholeWord addr .four = true)
    (he : writeEffect (regionOf s.cfg addr) addr w s = some t) (hp : s.pend ≠ none) (q : List Agent)
    (r : List HostOp) :
    step (hostTurn q r (.write addr .four w) s)
      = .next (answered q r (.write .err) (recorded .busyViolation 6#4 (addr.setWidth 32) s)) := by
  obtain ⟨c, hc⟩ := Option.ne_none_iff_exists'.mp hp
  rw [step_hostTurn]
  exact congrArg _ (hostWrite_busy (s := { s with sched := q, host := r }) hw (writeEffect_hostTurn he q r)
    (busy_of_pend hc))

/-- A read of a buffer word answers the word and may record unwritten bytes (10_state.md R34). -/
theorem step_buffer_read {addr : Offset} {s : State} (h : isBufferWord s.cfg addr) (q : List Agent)
    (r : List HostOp) :
    step (hostTurn q r (.read addr .four) s) = .next (answered q r (.read (s.wordAt addr.toNat) .ok)
      (s.recordUnwritten [addr.toNat, addr.toNat + 1, addr.toNat + 2, addr.toNat + 3])) :=
  (step_hostTurn q r _ s).trans
    (congrArg _ (access_buffer_read (s := { s with sched := q, host := r }) h))

/-- Settles O12: the rows of the map, each by the lemma for its kind of access. -/
theorem addressMap : Obligations.AddressMap := by
  intro s
  refine ⟨?reads, ?reserved, ?readOnly, ?bufferReads, ?writes⟩
  case reads =>
    refine ⟨readAnswers_register .cmd s, ?_, readAnswers_register .opa s, readAnswers_register .opb s,
      readAnswers_register .result s, readAnswers_sum rfl, readAnswers_register .core s,
      readAnswers_register .zc s, readAnswers_register .oc s, ?_, ?_, readAnswers_register .poly s,
      readAnswers_register .errinfo s⟩
    · exact statusWord_eq_statusValue s ▸ readAnswers_register .status s
    · have hlow := BitVec.setWidth_eq_extractLsb' (x := s.length) (w := 32) (by decide)
      exact hlow ▸ readAnswers_register .lengthLo s
    · exact readAnswers_register .lengthHi s
  case reserved =>
    intro addr ha h
    have hr := regionOf_reserved h
    exact ⟨readIsBad_of_reserved ((wholeWord_four addr).mpr ha) hr,
      writeIsBad_of_no_effect .four fun w t => by rw [hr]; rfl⟩
  case readOnly =>
    intro addr h
    obtain ⟨r, hr, rfl⟩ := mem_readOnlyOffsets h
    exact writeIsBad_register hr s
  case bufferReads => exact fun addr q r h => ⟨_, step_buffer_read h q r, rfl⟩
  case writes =>
    exact fun hp q r w => ⟨step_register_write_performed .cmd rfl hp q r,
      step_register_write_performed .opa rfl hp q r, step_register_write_performed .opb rfl hp q r,
      fun addr h => step_buffer_write_performed h hp w q r⟩

end Sys2Proof.Machine
end

section
/-! The byte order of a buffer word (20_memory.md R59): what a word write makes readable, and what a read
of written bytes answers. -/

namespace Sys2Proof.Machine
open Claims

/-- The four bytes of a written word, as offsets from its first (R59). -/
theorem Memory.read_writeWord_offset (m : Memory) (a : Nat) (w : Word) {j : Nat} (hj : j < 4) :
    (m.writeWord a w).read (a + j) = some (byteOf w j) := by
  rw [Memory.read_writeWord, if_pos ⟨by omega, by omega⟩, Nat.add_sub_cancel_left]

theorem Memory.read_writeWord_outside (m : Memory) {a b : Nat} (w : Word) (h : b < a ∨ a + 3 < b) :
    (m.writeWord a w).read b = m.read b := by
  rw [Memory.read_writeWord, if_neg (by omega)]

theorem byteAt_congr {s t : State} {a : Nat} (hm : t.mem.read a = s.mem.read a) (hr : t.resets = s.resets) :
    t.byteAt a = s.byteAt a := by
  rw [State.byteAt, State.byteAt, hm, hr]

theorem byteAt_of_read {s : State} {a : Nat} {b : Byte} (h : s.mem.read a = some b) : s.byteAt a = b := by
  rw [State.byteAt, h]

/-- A written word is the buffer word at its offset (R59). -/
theorem wordAt_of_bytes {s : State} {a : Nat} {w : Word}
    (h : ∀ j < 4, s.mem.read (a + j) = some (byteOf w j)) : s.wordAt a = w := by
  have hb : ∀ j < 4, s.byteAt (a + j) = byteOf w j := fun j hj => byteAt_of_read (h j hj)
  rw [State.wordAt, hb 3 (by decide), hb 2 (by decide), hb 1 (by decide), ← Nat.add_zero a,
    hb 0 (by decide), wordOfBytes_byteOf]

theorem recordUnwritten_of_written {s : State} {used : List Nat} (h : ∀ a ∈ used, s.mem.read a ≠ none) :
    s.recordUnwritten used = s := by
  have hf := recordUnwritten_faults_of_written h
  rw [recordUnwritten_faults] at hf
  rw [State.recordUnwritten, hf]

/-- A read of a buffer word whose bytes are all written does nothing but answer it (R55, R59). -/
theorem readAnswers_buffer {addr : Offset} {s : State} (h : isBufferWord s.cfg addr)
    (hw : ∀ j < 4, s.mem.read (addr.toNat + j) ≠ none) : readAnswers addr (s.wordAt addr.toNat) s := by
  intro q r
  rw [step_buffer_read h, recordUnwritten_of_written]
  intro a ha
  obtain ⟨j, hj, rfl⟩ := (mem_wordOffsets ..).mp ha
  exact hw j hj

/-- Settles O13: the write is `writeWord`, whose bytes the read puts together again. -/
theorem bufferWordsAreLittleEndian : Obligations.BufferWordsAreLittleEndian := by
  refine ⟨fun s q r addr w h hp => ?_, fun s q r addr h => ⟨_, step_buffer_read h q r, rfl⟩⟩
  have hbytes : ∀ j < 4, (s.mem.writeWord addr.toNat w).read (addr.toNat + j) = some (byteOf w j) :=
    fun j hj => Memory.read_writeWord_offset s.mem addr.toNat w hj
  refine ⟨_, step_buffer_write_performed h hp w q r, rfl, hbytes, fun a ha => ?_, ?_⟩
  · have hm := Memory.read_writeWord_outside s.mem w ha
    exact ⟨hm, byteAt_congr hm rfl⟩
  · have hread := readAnswers_buffer (s := { s with mem := s.mem.writeWord addr.toNat w }) h
      fun j hj => by rw [hbytes j hj]; exact Option.some_ne_none _
    rwa [wordAt_of_bytes hbytes] at hread

end Sys2Proof.Machine
end

section
/-! The interlock (20_memory.md R57): what a transaction and the host's step can change while a command is
in flight. -/

namespace Sys2Proof.Machine
open Claims

/-- While a command is in flight a transaction changes the error fields, the answer and the fault record
at most (R57). -/
theorem access_inFlight {s : State} (hp : s.pend ≠ none) (x : Transaction) :
    access x s =
      { s with
        err := (access x s).err, errcode := (access x s).errcode, errinfo := (access x s).errinfo
        answer := (access x s).answer, faults := (access x s).faults } := by
  rcases access_cases x s with ⟨v, used, h⟩ | ⟨e, addr, a, h⟩ | ⟨hn, _⟩ | ⟨hn, _⟩ | ⟨hn, _⟩ | ⟨hn, _⟩
  · rw [h]; rfl
  · rw [h]; rfl
  all_goals exact absurd hn hp

theorem hostStep_inFlight {s : State} (hp : s.pend ≠ none) :
    hostStep s =
      { s with
        err := (hostStep s).err, errcode := (hostStep s).errcode, errinfo := (hostStep s).errinfo
        host := (hostStep s).host, answer := (hostStep s).answer, faults := (hostStep s).faults } := by
  rcases hostStep_eq_access s with h | ⟨x, ops, h⟩
  · rw [h]
  · rw [h, access_inFlight hp]

/-- Settles O15: a write to each writable target is dropped, and the host's step in flight leaves what
`hostStep_inFlight` says. -/
theorem busyInterlock : Obligations.BusyInterlock := by
  refine ⟨fun s q r addr w hp htarget => ?_, fun s t hp ha hstep => ?_⟩
  · rcases htarget with rfl | rfl | rfl | hb
    · exact step_write_busy (offset_wholeWord .cmd) (t := issueCommand w s) rfl hp q r
    · exact step_write_busy (offset_wholeWord .opa) (t := { s with opa := w }) rfl hp q r
    · exact step_write_busy (offset_wholeWord .opb) (t := { s with opb := w }) rfl hp q r
    · exact step_write_busy (wholeWord_bufferWord hb) (by rw [regionOf_bufferWord hb]; rfl) hp q r
  · rw [step_host ha] at hstep
    cases hstep
    rw [hostStep_inFlight (s := takeTurn s) hp]
    exact ⟨rfl, rfl, rfl, rfl, rfl, rfl, rfl, rfl, rfl, rfl, rfl, rfl, fun _ => rfl⟩

end Sys2Proof.Machine
end

section
/-! Side effects of accesses and what repeating one changes (20_memory.md R63). -/

namespace Sys2Proof.Machine
open Claims

/-- A read answers a value with OK, and may record unwritten bytes, or it is BAD_ACCESS (R54, R55). -/
theorem access_read_cases (addr : Offset) (size : AccessSize) (s : State) :
    (∃ v used, access (.read addr size) s = answerWith (.read v .ok) (s.recordUnwritten used)) ∨
      access (.read addr size) s = refuseAccess .badAccess addr (.read 0#32 .err) s := by
  change (∃ v used, hostRead addr size s = _) ∨ hostRead addr size s = _
  cases hw : wholeWord addr size with
  | false => exact .inr (hostRead_bad s hw)
  | true =>
    cases hr : regionOf s.cfg addr with
    | reg r => exact .inl ⟨readRegister r s, [], by
      rw [hostRead_reg hw hr, recordUnwritten_of_written (List.forall_mem_nil _)]⟩
    | buffer => exact .inl ⟨_, _, hostRead_buffer hw hr⟩
    | reserved => exact .inr (hostRead_reserved hw hr)

/-- What a read answers depends neither on the last answer nor on the fault record. -/
theorem access_read_answer (addr : Offset) (size : AccessSize) (s : State) (a : Option BusAnswer)
    (f : List Fault) :
    (access (.read addr size) { s with answer := a, faults := f }).answer
      = (access (.read addr size) s).answer := by
  change (hostRead addr size { s with answer := a, faults := f }).answer = (hostRead addr size s).answer
  cases hw : wholeWord addr size with
  | false => rw [hostRead_bad _ hw, hostRead_bad _ hw]; rfl
  | true =>
    cases hr : regionOf s.cfg addr with
    | reg r =>
      rw [hostRead_reg (s := s) hw hr, hostRead_reg (s := { s with answer := a, faults := f }) hw hr]
      cases r <;> rfl
    | buffer =>
      rw [hostRead_buffer (s := s) hw hr, hostRead_buffer (s := { s with answer := a, faults := f }) hw hr]
      rfl
    | reserved =>
      rw [hostRead_reserved (s := s) hw hr,
        hostRead_reserved (s := { s with answer := a, faults := f }) hw hr]
      rfl

theorem Memory.write_cons_of_lt {c : Host.Cell} {a : Nat} (h : a < c.1) (m : Memory) (v : Byte) :
    Memory.write (c :: m) a v = (a, v) :: c :: m := by
  rw [Memory.write, if_pos h]

theorem Memory.write_cons_of_eq {c : Host.Cell} {a : Nat} (h : c.1 = a) (m : Memory) (v : Byte) :
    Memory.write (c :: m) a v = (a, v) :: m := by
  rw [Memory.write, if_neg (by omega), if_pos h]

theorem Memory.write_cons_of_gt {c : Host.Cell} {a : Nat} (h : c.1 < a) (m : Memory) (v : Byte) :
    Memory.write (c :: m) a v = c :: Memory.write m a v := by
  rw [Memory.write, if_neg (by omega), if_neg (by omega)]

/-- A byte written again is met where the first write put it. -/
theorem Memory.write_write_same (m : Memory) (a : Nat) (v : Byte) :
    (m.write a v).write a v = m.write a v := by
  induction m with
  | nil => exact Memory.write_cons_of_eq rfl [] v
  | cons c m ih =>
    rcases lt_trichotomy c.1 a with h | h | h
    · rw [Memory.write_cons_of_gt h, Memory.write_cons_of_gt h, ih]
    · rw [Memory.write_cons_of_eq h, Memory.write_cons_of_eq rfl]
    · rw [Memory.write_cons_of_lt h, Memory.write_cons_of_eq rfl]

/-- A byte that a write would leave as it is stays so through a write of another byte, in whatever order
the memory lists its bytes. -/
theorem Memory.write_eq_self_write {m : Memory} {a b : Nat} {v : Byte} (h : m.write a v = m) (hne : b ≠ a)
    (u : Byte) : (m.write b u).write a v = m.write b u := by
  induction m with
  | nil => cases h
  | cons c m ih =>
    rcases lt_trichotomy c.1 a with hc | hc | hc
    · rw [Memory.write_cons_of_gt hc] at h
      have hm : Memory.write m a v = m := (List.cons.inj h).2
      rcases lt_trichotomy c.1 b with hb | hb | hb
      · rw [Memory.write_cons_of_gt hb, Memory.write_cons_of_gt hc, ih hm]
      · rw [Memory.write_cons_of_eq hb, Memory.write_cons_of_gt (by omega), hm]
      · rw [Memory.write_cons_of_lt hb, Memory.write_cons_of_gt (by omega), Memory.write_cons_of_gt hc, hm]
    · rw [Memory.write_cons_of_eq hc] at h
      obtain rfl : (a, v) = c := (List.cons.inj h).1
      rcases lt_or_gt_of_ne hne with hb | hb
      · rw [Memory.write_cons_of_lt hb, Memory.write_cons_of_gt hb, Memory.write_cons_of_eq rfl]
      · rw [Memory.write_cons_of_gt hb, Memory.write_cons_of_eq rfl]
    · rw [Memory.write_cons_of_lt hc] at h
      exact absurd (List.cons.inj h).2 (List.cons_ne_self _ _)

/-- Repeating a word write changes nothing more (R63). -/
theorem Memory.writeWord_writeWord_same (m : Memory) (a : Nat) (w : Word) :
    (m.writeWord a w).writeWord a w = m.writeWord a w := by
  have h3 : (m.writeWord a w).write (a + 3) (byteOf w 3) = m.writeWord a w :=
    Memory.write_write_same ..
  have h2 : (m.writeWord a w).write (a + 2) (byteOf w 2) = m.writeWord a w :=
    Memory.write_eq_self_write (Memory.write_write_same ..) (by omega) _
  have h1 : (m.writeWord a w).write (a + 1) (byteOf w 1) = m.writeWord a w :=
    Memory.write_eq_self_write (Memory.write_eq_self_write (Memory.write_write_same ..) (by omega) _)
      (by omega) _
  have h0 : (m.writeWord a w).write a (byteOf w 0) = m.writeWord a w :=
    Memory.write_eq_self_write (Memory.write_eq_self_write
      (Memory.write_eq_self_write (Memory.write_write_same ..) (by omega) _) (by omega) _) (by omega) _
  rw [Memory.writeWord, h0, h1, h2, h3]

/-- A write other than to CMD, done again, finds its effect in place. -/
theorem writeEffect_repeat {region : Region} {addr : Offset} {w : Word} {s t : State}
    (hr : region ≠ .reg .cmd) (h : writeEffect region addr w s = some t) (a : BusAnswer) :
    t.cfg = s.cfg ∧ t.busy = s.busy ∧
      writeEffect region addr w (answerWith a t) = some (answerWith a t) := by
  cases region with
  | reg r =>
    cases r
    case cmd => exact absurd rfl hr
    case opa | opb => cases h; exact ⟨rfl, rfl, rfl⟩
    all_goals cases h
  | buffer =>
    cases h
    refine ⟨rfl, rfl, ?_⟩
    rw [writeEffect, answerWith_mem, Memory.writeWord_writeWord_same]
    rfl
  | reserved => cases h

/-- A write that answers OK had a whole word to write, an effect, and no command in flight (R56). -/
theorem access_write_ok {addr : Offset} {size : AccessSize} {w : Word} {s : State}
    (h : (access (.write addr size w) s).answer = some (.write .ok)) :
    wholeWord addr size = true ∧ s.busy = false ∧ ∃ t, writeEffect (regionOf s.cfg addr) addr w s = some t ∧
      access (.write addr size w) s = answerWith (.write .ok) t := by
  change (hostWrite addr size w s).answer = _ at h
  cases hw : wholeWord addr size with
  | false => rw [hostWrite_bad w s hw] at h; cases h
  | true =>
    cases he : writeEffect (regionOf s.cfg addr) addr w s with
    | none => rw [hostWrite_none he] at h; cases h
    | some t =>
      cases hb : s.busy with
      | true => rw [hostWrite_busy hw he hb] at h; cases h
      | false => exact ⟨rfl, rfl, t, rfl, hostWrite_ok hw he hb⟩

/-- A CMD write while a command is in flight is dropped with BUSY_VIOLATION (R57, R63). -/
theorem access_cmdWrite_busy {s : State} {c : Word} (hp : s.pend = some c) (v : Word) :
    access (cmdWrite v) s = refuseAccess .busyViolation 0x000#12 (.write .err) s :=
  hostWrite_busy (t := issueCommand v s) (offset_wholeWord .cmd) rfl (busy_of_pend hp)

/-- Settles O17: reads by `access_read_cases`, a repeated write by `writeEffect_repeat`, a second CMD
write by the interlock. -/
theorem accessSideEffects : Obligations.AccessSideEffects := by
  refine ⟨fun s addr size v h => ?readOk, fun s addr size v h => ?readErr, fun s addr w ha h => ?write,
    fun s w v _ h => ?command⟩
  case readOk =>
    have hframe : access (.read addr size) s
        = { s with answer := some (.read v .ok), faults := (access (.read addr size) s).faults } := by
      rcases access_read_cases addr size s with ⟨v', used, he⟩ | he <;> rw [he] at h ⊢ <;> cases h
      rfl
    refine ⟨hframe, ?_⟩
    rw [hframe, access_read_answer, h]
  case readErr =>
    rcases access_read_cases addr size s with ⟨v', used, he⟩ | he <;> rw [he] at h ⊢ <;> cases h
    exact ⟨rfl, rfl⟩
  case write =>
    obtain ⟨hw, hb, t, he, hok⟩ := access_write_ok h
    have hr : regionOf s.cfg addr ≠ .reg .cmd := fun hr => ha (regionOf_eq_reg hr)
    obtain ⟨hcfg, hbusy, hagain⟩ := writeEffect_repeat hr he (.write .ok)
    rw [hok]
    rw [← hcfg] at hagain
    have hrepeat := hostWrite_ok (s := answerWith (.write .ok) t) hw hagain (hbusy.trans hb)
    exact hrepeat
  case command =>
    rw [access_cmdWrite_busy h]
    exact ⟨h, rfl⟩

end Sys2Proof.Machine
end

section
/-! The decoder and the encoder (30_encoding.md R80, R83): which words decode, to which command, and that
each well-formed command and its one word determine each other. -/

namespace Sys2Proof
open Machine Claims

/-! ### The decoder, said once -/

/-- A command that has exactly one legal word is well formed, and its word is its opcode with every other
bit 0 (R82, R83). -/
theorem encode_of_oneWordCommand {opc : Byte} {i : Instr} (h : oneWordCommand opc = some i) :
    i.wellFormed = true ∧ encode i = 0#2 ++ 0#22 ++ opc := by
  unfold oneWordCommand at h
  split_ifs at h <;> subst opc <;> cases h <;> decide

/-- The opcodes with exactly one legal word (R82). -/
theorem exists_oneWordCommand (opc : Byte) :
    (∃ i, oneWordCommand opc = some i) ↔ opc ∈ [0x00#8, 0x01#8, 0x10#8, 0x11#8, 0x12#8, 0x20#8] := by
  unfold oneWordCommand
  split_ifs <;> simp [*]

/-- A word decodes exactly if RSV is 0 and it is a WUPDATE, whatever its counts, or has one of the other
opcodes and no operand bit (R83). -/
theorem decode_eq_ok {w : Word} {i : Instr} : decode w = .ok i ↔ fieldRsv w = 0#2 ∧
    ((fieldOpc w = 0x21#8 ∧ i = .wupdate (fieldNold w).toNat (fieldNnew w).toNat) ∨
      (oneWordCommand (fieldOpc w) = some i ∧ w.extractLsb' 8 22 = 0#22)) := by
  have hu : oneWordCommand 0x21#8 = none := by decide
  unfold decode
  by_cases hr : fieldRsv w = 0#2
  · by_cases ho : fieldOpc w = 0x21#8
    · simp [hr, ho, hu, eq_comm]
    · cases hc : oneWordCommand (fieldOpc w) with
      | none => simp [hr, ho]
      | some j => by_cases hx : w.extractLsb' 8 22 = 0#22 <;> simp [hr, ho, hx]
  · simp [hr]

/-! ### Encoding and decoding are inverse -/

theorem wellFormed_wupdate (m n : Nat) : (Instr.wupdate m n).wellFormed = true ↔ m < 2048 ∧ n < 2048 := by
  simp [Instr.wellFormed, countFits]

/-- Settles O1: the word of a WUPDATE has its counts in NOLD and NNEW (`Laws.Opcode`), and every other
command has one word. -/
theorem decodeOfEncodeIsTheCommand : Obligations.DecodeOfEncodeIsTheCommand := by
  intro i hi
  cases i with
  | wupdate m n =>
    obtain ⟨hopc, hrsv, hnold, hnnew⟩ := Laws.Opcode.wupdate m n hi
    exact decode_eq_ok.mpr ⟨hrsv, .inl ⟨hopc, by rw [hnold, hnnew]⟩⟩
  | _ => decide

/-- Settles O2: a word is its four fields (`word_fields`), which are those of the command's word. -/
theorem encodeOfDecodeIsTheWord : Obligations.EncodeOfDecodeIsTheWord := by
  intro w i h
  obtain ⟨hrsv, ⟨hopc, rfl⟩ | ⟨hone, hbits⟩⟩ := decode_eq_ok.mp h
  · have hm : (fieldNold w).toNat < 2048 := (fieldNold w).isLt
    have hn : (fieldNnew w).toNat < 2048 := (fieldNnew w).isLt
    refine ⟨?_, (wellFormed_wupdate ..).mpr ⟨hm, hn⟩⟩
    rw [encode_wupdate_fields _ _ hm hn, BitVec.ofNat_toNat, BitVec.ofNat_toNat, BitVec.setWidth_eq,
      BitVec.setWidth_eq, ← operand_fields, ← hrsv, ← hopc, ← word_fields]
  · obtain ⟨hwf, hword⟩ := encode_of_oneWordCommand hone
    exact ⟨by rw [hword, ← hrsv, ← hbits, ← word_fields], hwf⟩

/-- A word decodes to a command exactly if the command is well formed and the word is its encoding. -/
theorem decode_eq_ok_iff_encode {w : Word} {i : Instr} :
    decode w = .ok i ↔ i.wellFormed = true ∧ w = encode i := by
  refine ⟨fun h => ?_, ?_⟩
  · obtain ⟨hw, hi⟩ := encodeOfDecodeIsTheWord w i h
    exact ⟨hi, hw.symm⟩
  · rintro ⟨hi, rfl⟩
    exact decodeOfEncodeIsTheCommand i hi

/-- Settles O4: each written-out word is evaluated by the decoder. -/
theorem specCommandWordsDecode : Obligations.SpecCommandWordsDecode := by
  unfold Obligations.SpecCommandWordsDecode
  decide

/-! ### The legal words -/

/-- A well-formed command has one word (R83). -/
theorem decode_eq_ok_of_wellFormed {i : Instr} (hi : i.wellFormed = true) (w : Word) :
    decode w = .ok i ↔ w = encode i :=
  decode_eq_ok_iff_encode.trans (and_iff_right hi)

theorem encode_wupdate (m n : Nat) : encode (.wupdate m n) = updateWord m n :=
  (BitVec.or_assoc ..).symm

theorem decode_eq_wupdate {w : Word} {m n : Nat} :
    decode w = .ok (.wupdate m n) ↔ m < 2048 ∧ n < 2048 ∧ w = updateWord m n := by
  rw [decode_eq_ok_iff_encode, wellFormed_wupdate, encode_wupdate, and_assoc]

/-- The mask 0xC00000FF keeps RSV and OPC (R83). -/
theorem and_mask_fields (w : Word) : w &&& 0xC00000FF#32 = fieldRsv w ++ (0#11 ++ 0#11) ++ fieldOpc w := by
  apply BitVec.eq_of_getLsbD_eq
  intro i hi
  simp only [fieldRsv, fieldOpc, BitVec.getLsbD_and, BitVec.getLsbD_append, BitVec.getLsbD_extractLsb']
  interval_cases i <;> simp

theorem and_mask_eq_iff (w : Word) :
    w &&& 0xC00000FF#32 = 0x00000021#32 ↔ fieldRsv w = 0#2 ∧ fieldOpc w = 0x21#8 := by
  obtain ⟨hrsv, _, _, hopc⟩ := fields_append (fieldRsv w) 0#11 0#11 (fieldOpc w)
  rw [and_mask_fields]
  refine ⟨fun h => ?_, fun ⟨hr, ho⟩ => by rw [hr, ho]; rfl⟩
  rw [h] at hrsv hopc
  exact ⟨hrsv.symm, hopc.symm⟩

theorem exists_decode_wupdate (w : Word) :
    (∃ m n, decode w = .ok (.wupdate m n)) ↔ fieldRsv w = 0#2 ∧ fieldOpc w = 0x21#8 := by
  refine ⟨?_, fun ⟨hr, ho⟩ => ⟨_, _, decode_eq_ok.mpr ⟨hr, .inl ⟨ho, rfl⟩⟩⟩⟩
  rintro ⟨m, n, h⟩
  obtain ⟨hm, hn, rfl⟩ := decode_eq_wupdate.mp h
  rw [← encode_wupdate]
  obtain ⟨hopc, hrsv, _⟩ := Laws.Opcode.wupdate m n ((wellFormed_wupdate m n).mpr ⟨hm, hn⟩)
  exact ⟨hrsv, hopc⟩

/-- Which words are legal, by their fields (R83). -/
theorem exists_decode (w : Word) : (∃ i, decode w = .ok i) ↔
    fieldOpc w ∈ [0x00#8, 0x01#8, 0x10#8, 0x11#8, 0x12#8, 0x20#8, 0x21#8] ∧ fieldRsv w = 0#2 ∧
      (fieldOpc w = 0x21#8 ∨ w.extractLsb' 8 22 = 0#22) := by
  have hone := exists_oneWordCommand (fieldOpc w)
  simp only [decode_eq_ok, exists_and_left, exists_or, exists_eq, and_true, exists_and_right, hone]
  simp only [List.mem_cons, List.not_mem_nil, or_false]
  tauto

end Sys2Proof
end

section
/-! Acceptance of a command written to CMD with no command in flight (30_encoding.md R84, R85): the legal
words, the checks in their order, and what each outcome leaves. -/

namespace Sys2Proof.Machine
open Claims

/-! ### One equation per outcome of acceptance -/

theorem issueCommand_illegal {w : Word} (h : ¬∃ i, decode w = .ok i) (s : State) :
    issueCommand w s = raiseError .illegalCommand w s := by
  unfold issueCommand
  cases hd : decode w with
  | error e => rfl
  | ok i => exact absurd ⟨i, hd⟩ h

theorem issueCommand_refused {w : Word} {i : Instr} {e : ErrorName} {s : State} (hd : decode w = .ok i)
    (hc : acceptCheck i s = some e) : issueCommand w s = raiseError e w s := by
  simp only [issueCommand, hd, hc]

theorem issueCommand_accepted {w : Word} {i : Instr} {s : State} (hd : decode w = .ok i)
    (hc : acceptCheck i s = none) : issueCommand w s = accept w s := by
  simp only [issueCommand, hd, hc]

/-- With no command in flight a CMD write is acceptance and nothing else (R84). -/
theorem step_cmdWrite {s : State} (hp : s.pend = none) (w : Word) (q : List Agent) (r : List HostOp) :
    step (hostTurn q r (cmdWrite w) s) = .next (answered q r (.write .ok) (issueCommand w s)) :=
  step_register_write_performed .cmd rfl hp q r

theorem step_cmdWrite_illegal {s : State} {w : Word} (h : ¬∃ i, decode w = .ok i) (hp : s.pend = none)
    (q : List Agent) (r : List HostOp) : step (hostTurn q r (cmdWrite w) s)
      = .next (answered q r (.write .ok) (recorded .illegalCommand 3#4 w s)) := by
  rw [step_cmdWrite hp, issueCommand_illegal h]
  rfl

/-- Settles O3: every clause is `decode` through its inverse `encode`, or through the fields of the word. -/
theorem legalCommandWords : Obligations.LegalCommandWords :=
  ⟨exists_decode, decode_eq_ok_of_wellFormed (i := .nop) rfl, decode_eq_ok_of_wellFormed (i := .clrerr) rfl,
    decode_eq_ok_of_wellFormed (i := .bstep) rfl, decode_eq_ok_of_wellFormed (i := .mul8) rfl,
    decode_eq_ok_of_wellFormed (i := .mul32) rfl, decode_eq_ok_of_wellFormed (i := .wreset) rfl,
    fun _ _ _ => decode_eq_wupdate, fun w => (exists_decode_wupdate w).trans (and_mask_eq_iff w).symm,
    fun _ _ q r h hp => step_cmdWrite_illegal h hp q r⟩

/-! ### The checks -/

/-- A command with one legal word has no acceptance check (R84). -/
theorem accepts_oneWord {w : Word}
    (hw : w ∈ [0x00000000#32, 0x00000001#32, 0x00000010#32, 0x00000011#32, 0x00000012#32, 0x00000020#32]) :
    ∃ i, decode w = .ok i ∧ ∀ s, acceptCheck i s = none := by
  simp only [List.mem_cons, List.not_mem_nil, or_false] at hw
  rcases hw with rfl | rfl | rfl | rfl | rfl | rfl <;> exact ⟨_, rfl, fun _ => rfl⟩

/-- Settles O7: the word of a WUPDATE decodes to it, and `updateCheck` names the first check that fails. -/
theorem commandAcceptance : Obligations.CommandAcceptance := by
  refine ⟨fun s q r w h hp => step_cmdWrite_illegal h hp q r, fun s q r w hw hp => ?_,
    fun s q r m n hm hn hp => ?_⟩
  · obtain ⟨i, hd, hc⟩ := accepts_oneWord hw
    rw [step_cmdWrite hp, issueCommand_accepted hd (hc s)]
    rfl
  · have hd : decode (updateWord m n) = .ok (.wupdate m n) := decode_eq_wupdate.mpr ⟨hm, hn, rfl⟩
    have hrefused : ∀ e, updateCheck m n s = some e → step (hostTurn q r (cmdWrite (updateWord m n)) s)
        = .next (answered q r (.write .ok) (recorded e e.code (updateWord m n) s)) := fun e hc => by
      rw [step_cmdWrite hp, issueCommand_refused hd hc]
      rfl
    refine ⟨fun h => hrefused .countRange ?_, fun h1 h2 h3 => hrefused .windowUnderflow ?_,
      fun h1 h2 h3 h4 => hrefused .shrinkNotSupported ?_, fun h1 h2 h3 h4 h5 => hrefused .lengthOverflow ?_,
      fun h => ?_⟩
    · rw [updateCheck, if_pos h]
    · rw [updateCheck, if_neg (by omega), if_pos h3]
    · rw [updateCheck, if_neg (by omega), if_neg (by omega), if_pos h4]
    · rw [updateCheck, if_neg (by omega), if_neg (by omega), if_neg (by omega), if_pos h5]
    · rw [step_cmdWrite hp, issueCommand_accepted hd ((updateCheck_eq_none m n s).mpr h)]
      rfl

end Sys2Proof.Machine
end

section
/-! LOADB (30_encoding.md R87): the bytes of its words, what writing words one after another leaves, and
the run of its expansion. -/

namespace Sys2Proof.Machine
open Claims

/-! ### The words of a LOADB -/

/-- Four bytes in their places (20_memory.md R59). -/
theorem byteOf_wordOfBytes (f : Nat → Byte) {j : Nat} (hj : j < 4) :
    byteOf (wordOfBytes (f 3) (f 2) (f 1) (f 0)) j = f j := by
  apply BitVec.eq_of_getLsbD_eq
  intro i hi
  simp only [wordOfBytes, byteOf, BitVec.getLsbD_append, BitVec.getLsbD_extractLsb']
  interval_cases j <;> interval_cases i <;> simp

/-- The first word of a LOADB is its first four bytes, with 0x00 in place of those it lacks. -/
theorem loadWords_of_ne_nil {bytes : List Byte} (h : bytes ≠ []) :
    loadWords bytes =
      wordOfBytes (bytes.getD 3 0#8) (bytes.getD 2 0#8) (bytes.getD 1 0#8) (bytes.getD 0 0#8)
        :: loadWords (bytes.drop 4) := by
  match bytes with
  | [] => exact absurd rfl h
  | [_] => rfl
  | [_, _] => rfl
  | [_, _, _] => rfl
  | _ :: _ :: _ :: _ :: _ => rfl

theorem length_loadWords (bytes : List Byte) : (loadWords bytes).length = (bytes.length + 3) / 4 := by
  induction bytes using loadWords.induct with
  | case5 b0 b1 b2 b3 rest ih =>
    rw [loadWords, List.length_cons, ih]
    simp only [List.length_cons]
    omega
  | _ => simp [loadWords]

/-- Byte `j` of word `q` is byte `4q + j` of the LOADB, or the padding 0x00. -/
theorem byteOf_loadWords {bytes : List Byte} {q j : Nat} (hq : q < (loadWords bytes).length) (hj : j < 4) :
    byteOf (loadWords bytes)[q] j = bytes.getD (4 * q + j) 0#8 := by
  induction q generalizing bytes with
  | zero =>
    have hne : bytes ≠ [] := by rintro rfl; exact absurd hq (Nat.not_lt_zero _)
    simp only [loadWords_of_ne_nil hne, List.getElem_cons_zero, Nat.mul_zero, Nat.zero_add]
    exact byteOf_wordOfBytes (bytes.getD · 0#8) hj
  | succ q ih =>
    have hne : bytes ≠ [] := by rintro rfl; exact absurd hq (Nat.not_lt_zero _)
    simp only [loadWords_of_ne_nil hne, List.length_cons, Nat.add_lt_add_iff_right] at hq
    simp only [loadWords_of_ne_nil hne, List.getElem_cons_succ, ih hq, List.getD_eq_getElem?_getD,
      List.getElem?_drop]
    rw [show 4 + (4 * q + j) = 4 * (q + 1) + j by omega]

/-! ### Words written one after another -/

/-- The words `ws` written from offset `a` on, each at the next multiple of four. -/
def Memory.writeWords (m : Memory) (a : Nat) : List Word → Memory
  | [] => m
  | w :: ws => Memory.writeWords (m.writeWord a w) (a + 4) ws

theorem Memory.read_writeWords_outside (m : Memory) {a b : Nat} (ws : List Word)
    (h : b < a ∨ a + 4 * ws.length ≤ b) : (m.writeWords a ws).read b = m.read b := by
  induction ws generalizing m a with
  | nil => rfl
  | cons w ws ih =>
    rw [List.length_cons] at h
    rw [Memory.writeWords, ih _ (by omega), Memory.read_writeWord_outside m w (by omega)]

theorem Memory.read_writeWords (m : Memory) (a : Nat) {ws : List Word} {q j : Nat} (hq : q < ws.length)
    (hj : j < 4) : (m.writeWords a ws).read (a + (4 * q + j)) = some (byteOf ws[q] j) := by
  induction ws generalizing m a q with
  | nil => exact absurd hq (Nat.not_lt_zero _)
  | cons w ws ih =>
    rw [Memory.writeWords]
    cases q with
    | zero =>
      rw [Nat.mul_zero, Nat.zero_add, Memory.read_writeWords_outside _ _ (by omega),
        Memory.read_writeWord_offset m a w hj, List.getElem_cons_zero]
    | succ q =>
      rw [show a + (4 * (q + 1) + j) = a + 4 + (4 * q + j) by omega, ih _ _ (Nat.lt_of_succ_lt_succ hq),
        List.getElem_cons_succ]

/-- What the words of a LOADB leave: its bytes in order and 0x00 to the end of the last word (R87). -/
theorem Memory.read_writeWords_loadWords (m : Memory) (a : Nat) {bytes : List Byte} {i : Nat}
    (hi : i < 4 * ((bytes.length + 3) / 4)) :
    (m.writeWords a (loadWords bytes)).read (a + i) = some (bytes.getD i 0#8) := by
  have hq : i / 4 < (loadWords bytes).length := by rw [length_loadWords]; omega
  have hj : i % 4 < 4 := Nat.mod_lt i (by decide)
  have hread := Memory.read_writeWords m a hq hj
  rwa [byteOf_loadWords hq hj, Nat.div_add_mod] at hread

/-! ### The run of the expansion -/

/-- A run's first step. -/
theorem run_succ {M : Host.Core} {s t : M.State} (h : M.step s = .next t) (k : Nat) :
    M.run (k + 1) s = M.run k t := by
  rw [Host.Core.run, h]

/-- With the schedule used up and no command in flight the host moves (log 1). -/
theorem nextAgent_of_idle {s : State} (hs : s.sched = []) (hp : s.pend = none) : nextAgent s = .host := by
  rw [nextAgent, hs]
  simp only [not_busy_of_pend hp]
  rfl

/-- So a transaction at the head of the host's operations runs as in a turn the schedule gives the host. -/
theorem step_tx_of_idle {s : State} (hp : s.pend = none) (x : Transaction) (r : List HostOp) :
    step { s with sched := [], host := .tx x :: r } = step (hostTurn [] r x s) :=
  step_host (nextAgent_of_idle rfl hp)

/-- A word of a buffer, by its place in the buffer (20_memory.md R58). -/
theorem isBufferWord_base {cfg : Config} (b : BufName) {k : Nat} (hk : k % 4 = 0) (h : k < cfg.bufDepth) :
    (BitVec.ofNat 12 (b.base + k)).toNat = b.base + k ∧ isBufferWord cfg (BitVec.ofNat 12 (b.base + k)) := by
  have hd := bufDepth_bounds cfg
  have hb : b.base = 0x400 ∨ b.base = 0x800 := by cases b; exacts [.inl rfl, .inr rfl]
  have ha : (BitVec.ofNat 12 (b.base + k)).toNat = b.base + k := by
    rw [BitVec.toNat_ofNat]
    omega
  rw [isBufferWord, ha]
  omega

theorem writeOp_buf (b : BufName) {k : Nat} (w : Word) (hk : k % 4 = 0) (h : b.base + k < 0x1000) :
    writeOp (.buf b k) w = .ok (.tx (.write (BitVec.ofNat 12 (b.base + k)) .four w)) := by
  simp only [writeOp, Target.addr, hk, h, and_self, if_true]

/-- The writes of words that lie within the buffer expand, run one step each, and leave `writeWords`
(R87, log 1). -/
theorem loadOps_run (b : BufName) (ws : List Word) {s : State} {k : Nat} (hk : k % 4 = 0)
    (hlen : k + 4 * ws.length ≤ s.cfg.bufDepth) (hp : s.pend = none) :
    ∃ ops a, loadOps b k ws = .ok ops ∧
      Sys2Proof.core.run ops.length { s with sched := [], host := ops }
        = .next { s with sched := [], host := [], mem := s.mem.writeWords (b.base + k) ws, answer := a } := by
  induction ws generalizing s k with
  | nil => exact ⟨[], s.answer, rfl, rfl⟩
  | cons w ws ih =>
    rw [List.length_cons] at hlen
    obtain ⟨haddr, hword⟩ := isBufferWord_base (cfg := s.cfg) b hk (by omega)
    have hwrite := writeOp_buf b w hk (haddr ▸ BitVec.isLt _)
    obtain ⟨ops, a, hops, hrun⟩ := ih (k := k + 4)
      (s := { s with mem := s.mem.writeWord (b.base + k) w, answer := some (.write .ok) })
      (by omega) (by simp only; omega) hp
    refine ⟨_, a, by rw [loadOps, hwrite, hops], ?_⟩
    have hstep := (step_tx_of_idle hp _ ops).trans (step_buffer_write_performed hword hp w [] ops)
    rw [haddr] at hstep
    exact (run_succ (M := Sys2Proof.core) hstep _).trans hrun

/-- Settles O54: the expansion runs by `loadOps_run`, and `writeWords` of its words holds its bytes. -/
theorem loadbWritesItsBytes : Obligations.LoadbWritesItsBytes := by
  intro s b k bytes hk hlen hp
  have hd := bufDepth_bounds s.cfg
  obtain ⟨ops, a, hops, hrun⟩ := loadOps_run b (loadWords bytes) hk
    (by rw [length_loadWords]; omega : k + 4 * (loadWords bytes).length ≤ s.cfg.bufDepth) hp
  refine ⟨ops, _, by rw [ScriptLine.expand, if_pos hk, hops], hrun, rfl, rfl, fun i hi => ?_,
    fun i hi hi' => ?_, fun x hx => ?_⟩
  · rw [Memory.read_writeWords_loadWords _ _ (by omega), List.getD_eq_getElem _ _ hi]
  · rw [Memory.read_writeWords_loadWords _ _ hi', List.getD_eq_default _ _ hi]
  · exact Memory.read_writeWords_outside _ _ (by rw [length_loadWords]; exact hx)

end Sys2Proof.Machine
end

section
/-! DO (30_encoding.md R87): the CMD write, the completion and the poll of WAIT, one step each. -/

namespace Sys2Proof.Machine
open Claims

/-- No command reads what the host does next or the last answer (20_memory.md R51; log 1, log 3). -/
theorem exec_host_answer {i : Instr} {s u : State} (h : exec i s = .next u) (r : List HostOp)
    (a : Option BusAnswer) :
    exec i { s with host := r, answer := a } = .next { u with host := r, answer := a } := by
  cases i with
  | wupdate m n =>
    change execWupdate m n s = .next u at h
    change execWupdate m n { s with host := r, answer := a } = _
    have hcheck : updateCheck m n { s with host := r, answer := a } = updateCheck m n s := rfl
    rcases execWupdate_cases m n s with ⟨e, hc, hu⟩ | ⟨hc, hu⟩ <;> rw [hu] at h <;> cases h <;>
      simp only [execWupdate, hcheck, hc]
    · rfl
    · by_cases hk : n - m = 0
      · rw [updateWindow_hold _ _ _ hk, updateWindow_hold _ _ _ hk]; rfl
      · rw [updateWindow_grow _ _ _ hk, updateWindow_grow _ _ _ hk]; rfl
  | _ => cases h; rfl

/-! ### WAIT -/

theorem access_status_read (s : State) :
    access (.read RegName.status.offset .four) s = answerWith (.read (statusWord s) .ok) s :=
  hostRead_reg (offset_wholeWord .status) (regionOf_reg s.cfg .status)

/-- BUSY is bit 0 of STATUS (10_state.md R30). -/
theorem statusWord_and_one {s : State} (hp : s.pend = none) : statusWord s &&& 1#32 = 0#32 := by
  have hfields : ∀ (c : BitVec 4) (e : Bool),
      (0#24 ++ c ++ 0#2 ++ BitVec.ofBool e ++ BitVec.ofBool false) &&& 1#32 = 0#32 := by decide
  rw [statusWord, not_busy_of_pend hp, hfields]

/-- With the schedule used up no entry is there to use (log 1). -/
theorem takeTurn_of_sched_nil {s : State} (hs : s.sched = []) : takeTurn s = s := by
  rw [takeTurn, hs, List.tail_nil, ← hs]

/-- With no command in flight WAIT's one read ends it, and changes nothing but the answer (R86, R87). -/
theorem step_wait_of_idle {s : State} {r : List HostOp} (hs : s.sched = []) (hp : s.pend = none)
    (hh : s.host = waitOp :: r) :
    step s = .next { s with host := r, answer := some (.read (statusWord s) .ok) } := by
  have hsat : pollSatisfied 1#32 0#32 (some (.read (statusWord s) .ok)) = true :=
    decide_eq_true (statusWord_and_one hp)
  rw [step_host (nextAgent_of_idle hs hp), takeTurn_of_sched_nil hs, hostStep, hh]
  simp only [waitOp, access_status_read, answerWith_answer, hsat, if_true]
  rfl

/-! ### DO -/

theorem commandOp_of_wellFormed {i : Instr} (hi : i.wellFormed = true) :
    commandOp i = .ok (.tx (cmdWrite (encode i))) := by
  rw [commandOp, if_pos hi]
  rfl

theorem commandOp_of_not_wellFormed {i : Instr} (hi : i.wellFormed = false) :
    commandOp i = .error .countDoesNotFit := by
  rw [commandOp, hi]
  rfl

theorem doOps_of_wellFormed {i : Instr} (hi : i.wellFormed = true) :
    doOps i = .ok [.tx (cmdWrite (encode i)), waitOp] := by
  rw [doOps, commandOp_of_wellFormed hi]

theorem doOps_of_not_wellFormed {i : Instr} (hi : i.wellFormed = false) :
    doOps i = .error .countDoesNotFit := by
  rw [doOps, commandOp_of_not_wellFormed hi]

/-- With the schedule used up the command in flight completes next (log 1). -/
theorem step_completes_of_sched_nil {s : State} {w : Word} {i : Instr} (hs : s.sched = [])
    (hp : s.pend = some w) (hd : decode w = .ok i) : step s = exec i (complete s) := by
  have hnext : nextAgent s = .engine := by
    rw [nextAgent, hs]
    simp only [busy_of_pend hp, if_true]
  rw [step_completes hnext hp hd, takeTurn_of_sched_nil hs]

/-- A command whose checks pass is accepted, completes and is waited for, one step each (R87, log 1). -/
theorem run_doOps {s u : State} {i : Instr} (hi : i.wellFormed = true) (hp : s.pend = none)
    (hs : s.sched = []) (hh : s.host = []) (hc : acceptCheck i s = none) (he : exec i s = .next u) :
    Sys2Proof.core.run 3 { s with host := [.tx (cmdWrite (encode i)), waitOp] }
      = .next { u with answer := some (.read (statusWord u) .ok) } := by
  obtain ⟨_, _, _, _, hup, huh, hus, _⟩ := exec_frame he
  have hd := decodeOfEncodeIsTheCommand i hi
  have hissue : step { s with host := [.tx (cmdWrite (encode i)), waitOp] }
      = .next { s with pend := some (encode i), host := [waitOp], answer := some (.write .ok) } := by
    have h := (step_tx_of_idle hp _ [waitOp]).trans (step_cmdWrite hp (encode i) [] [waitOp])
    rwa [issueCommand_accepted hd hc, ← hs] at h
  have hexec : step { s with pend := some (encode i), host := [waitOp], answer := some (.write .ok) }
      = .next { u with host := [waitOp], answer := some (.write .ok) } := by
    rw [← exec_host_answer he, hp]
    exact step_completes_of_sched_nil hs rfl hd
  have hwait : step { u with host := [waitOp], answer := some (.write .ok) }
      = .next { u with answer := some (.read (statusWord u) .ok) } := by
    rw [huh.trans hh]
    exact step_wait_of_idle (hus.trans hs) (hup.trans hp) rfl
  exact (run_succ (M := Sys2Proof.core) hissue 2).trans
    ((run_succ (M := Sys2Proof.core) hexec 1).trans (run_succ (M := Sys2Proof.core) hwait 0))

/-- Settles O55: DO runs by `run_doOps`, and the CALL forms are the lines they stand for. -/
theorem doRunsTheCommand : Obligations.DoRunsTheCommand := by
  refine ⟨fun s i hi hp hs hh hc => ?_, fun m n => rfl, rfl, rfl, fun m n h => ?_⟩
  · obtain ⟨u, he⟩ := exec_next i s
    exact ⟨_, _, u, doOps_of_wellFormed hi, he, run_doOps hi hp hs hh hc he,
      by rw [statusWord_eq_statusValue]⟩
  · refine doOps_of_not_wellFormed (Bool.eq_false_iff.mpr fun hw => ?_)
    have := (wellFormed_wupdate m n).mp hw
    omega

end Sys2Proof.Machine
end

section
/-! TABLE, Step and BSTEP (40_byte_step.md): the entries the spec names, the polynomial meaning and the
linearity of both, read off their classes in GF(2)[x]/G, and what BSTEP stores. -/

namespace Sys2Proof.Machine
open Polynomial

/-! ### TABLE -/

/-- Bit 7 of a byte, its lowest power of x, stands for 1. -/
theorem rho8_one : rho8 0x80#8 = 1 := by
  rw [← rho32_high, show (0x80#8 : Byte).setWidth 32 <<< 24 = 0x80000000#32 by decide, rho32_one]

theorem tableEntry_zero (p : Word) : tableEntry p 0x00#8 = 0#32 :=
  residue_injective (p := p) (by rw [residue_tableEntry, residue8, rho8_zero, map_zero, mul_zero, residue_zero])

/-- TABLE[0x80] stands for x^32, which is POLY_REV (00_scope.md R11). -/
theorem tableEntry_one (p : Word) : tableEntry p 0x80#8 = p :=
  residue_injective (p := p) (by rw [residue_tableEntry, residue8, rho8_one, map_one, mul_one, residueX_pow_32])

theorem tableEntry_xor (p : Word) (i j : Byte) : tableEntry p (i ^^^ j) = tableEntry p i ^^^ tableEntry p j :=
  residue_injective (p := p) (by
    rw [residue_tableEntry, residue8_xor, mul_add, residue_xor, residue_tableEntry, residue_tableEntry])

/-- The default table of 40_byte_step.md R100, all of its 256 entries. -/
theorem table_default : table 0xEDB88320#32 = Claims.printedTable := by
  decide +kernel

/-- Settles O20: the sequence c_t is `tableShift` iterated, and the named entries are `tableEntry_zero`,
`tableEntry_one` and `table_default`. -/
theorem tableConstruction : Obligations.TableConstruction :=
  ⟨fun p i => ⟨fun t => (tableShift p)^[t] (i.setWidth 32), rfl,
      fun t _ => Function.iterate_succ_apply' (tableShift p) t _, rfl⟩,
    fun p => ⟨tableEntry_zero p, tableEntry_one p⟩, table_default⟩

/-- Settles O21: each equation holds in the quotient ring, where the model's laws give the class of TABLE
and Step, and is brought back to a remainder. -/
theorem stepPolynomialMeaning : Obligations.StepPolynomialMeaning := by
  intro p acc b
  refine ⟨rho32_eq_modByMonic_of_mk ?_, rho32_eq_modByMonic_of_mk ?_, rho32_eq_modByMonic_of_mk ?_,
    rho32_eq_modByMonic_of_mk ?_⟩
  · rw [residue_tableEntry, residue8, mul_comm, map_mul, map_pow, mk_X]
  · rw [tableEntry, residue_tableShift_iterate, residue, mul_comm, map_mul, map_pow, mk_X]
  · rw [residue_crcStep, residue, residue8]
    simp only [map_mul, map_add, map_pow, mk_X]
    ring
  · rw [residue_crcStep_zero, residue, mul_comm, map_mul, map_pow, mk_X]

/-! ### Step -/

theorem crcStep_xor (p a a' : Word) (b b' : Byte) :
    crcStep p (a ^^^ a') (b ^^^ b') = crcStep p a b ^^^ crcStep p a' b' :=
  residue_injective (p := p) (by
    rw [residue_crcStep, residue_xor, residue8_xor, residue_xor, residue_crcStep, residue_crcStep]
    ring)

/-- Step from 0 looks its byte up. -/
theorem crcStep_zero_left (p : Word) (b : Byte) : crcStep p 0#32 b = tableEntry p b := by
  rw [crcStep, BitVec.extractLsb'_zero, BitVec.zero_xor, BitVec.zero_ushiftRight, BitVec.xor_zero]

/-- A byte equal to the low byte of the accumulator leaves only the shift. -/
theorem crcStep_low_byte (p acc : Word) : crcStep p acc (acc.extractLsb' 0 8) = acc >>> 8 := by
  rw [crcStep, BitVec.xor_self, tableEntry_zero, BitVec.zero_xor]

/-- CRC32std is the complement of the fold from ONES (00_scope.md R13). -/
theorem not_foldl_crcStep_ones (p : Word) (bytes : List Byte) :
    ~~~bytes.foldl (crcStep p) ones = crc32std p bytes := by
  rw [crc32std, show ones = BitVec.allOnes 32 by decide, BitVec.xor_allOnes]

/-- Settles O22: both functions are additive in the quotient ring (`tableEntry_xor`, `crcStep_xor`), and
the two checksums are their folds. -/
theorem stepIsLinear : Obligations.StepIsLinear :=
  ⟨tableEntry_xor, crcStep_xor, crcStep_zero_zero, fun p bytes => ⟨rfl, not_foldl_crcStep_ones p bytes⟩⟩

/-! ### BSTEP -/

/-- BSTEP stores Step of OPA and OPB[7:0] in RESULT and does nothing else (40_byte_step.md R104). -/
theorem exec_bstep {s : State} {v : Word} (h : crcStep s.cfg.polyRev s.opa (s.opb.extractLsb' 0 8) = v) :
    exec .bstep s = .next { s with result := v } := h ▸ rfl

/-- Settles O24: `exec_bstep` with the value Step takes in each corner case. -/
theorem bstepCommand : Obligations.BstepCommand := by
  refine ⟨by decide, fun s => exec_bstep rfl, fun s ha hb => exec_bstep ?_, fun s ha => exec_bstep ?_,
    fun s hb => exec_bstep ?_, fun s hp ha hb => exec_bstep ?_⟩
  · rw [ha, hb, crcStep_zero_zero]
  · rw [ha, crcStep_zero_left]
  · rw [hb, crcStep_low_byte]
  · rw [hp, ha, hb]
    decide

end Sys2Proof.Machine
end

section
/-! The multipliers and the power of x (41_polymul.md): their polynomial meaning, the laws of R126, which
are those of the commutative ring GF(2)[x]/G, and what MUL8 and MUL32 store. -/

namespace Sys2Proof.Machine
open Polynomial

/-! ### Reduced multiplication -/

/-- The class of the word with bit k alone. -/
theorem residue_twoPow (p : Word) {k : ℕ} (hk : k < 32) :
    residue p (BitVec.twoPow 32 k) = residueX p ^ (31 - k) := by
  rw [residue, rho32_twoPow k hk, map_pow, mk_X]

/-- Mul8 is Mul32 by the byte in the high place (41_polymul.md R123). -/
theorem mul8_eq_mul32 (p c : Word) (v : Byte) : mul8 p c v = mul32 p c (v.setWidth 32 <<< 24) :=
  residue_injective (p := p) (by rw [residue_mul8, residue_mul32, residue8, ← rho32_high, residue, residue])

/-- Settles O25: `residue_mul8` brought back from the quotient ring, and `mul8_eq_mul32`. -/
theorem mul8IsReducedMultiplication : Obligations.Mul8IsReducedMultiplication := fun p c v =>
  ⟨rho32_eq_modByMonic_of_mk ((residue_mul8 p c v).trans (map_mul _ _ _).symm), mul8_eq_mul32 p c v⟩

/-- Settles O26: `residue_mul32` brought back from the quotient ring. -/
theorem mul32IsReducedMultiplication : Obligations.Mul32IsReducedMultiplication := fun p a b =>
  rho32_eq_modByMonic_of_mk ((residue_mul32 p a b).trans (map_mul _ _ _).symm)

/-! ### The laws of Mul32 -/

theorem mul32_comm (p a b : Word) : mul32 p a b = mul32 p b a :=
  residue_injective (p := p) (by rw [residue_mul32, residue_mul32, mul_comm])

theorem mul32_assoc (p a b c : Word) : mul32 p (mul32 p a b) c = mul32 p a (mul32 p b c) :=
  residue_injective (p := p) (by
    rw [residue_mul32, residue_mul32, residue_mul32, residue_mul32, mul_assoc])

@[simp] theorem mul32_zero_right (p a : Word) : mul32 p a 0#32 = 0#32 :=
  residue_injective (p := p) (by rw [residue_mul32, residue_zero, mul_zero])

@[simp] theorem mul32_zero_left (p b : Word) : mul32 p 0#32 b = 0#32 := by
  rw [mul32_comm, mul32_zero_right]

@[simp] theorem mul32_one_right (p a : Word) : mul32 p a 0x80000000#32 = a :=
  residue_injective (p := p) (by rw [residue_mul32, residue_one, mul_one])

@[simp] theorem mul32_one_left (p b : Word) : mul32 p 0x80000000#32 b = b := by
  rw [mul32_comm, mul32_one_right]

theorem mul32_xor_left (p a c b : Word) : mul32 p (a ^^^ c) b = mul32 p a b ^^^ mul32 p c b :=
  residue_injective (p := p) (by
    rw [residue_mul32, residue_xor, residue_xor, residue_mul32, residue_mul32, add_mul])

/-- The product of two powers of x of degree at most 31 together, which needs no reduction. -/
theorem mul32_twoPow (p : Word) {j k : ℕ} (hj : j < 32) (hk : k < 32) (hjk : 31 ≤ j + k) :
    mul32 p (BitVec.twoPow 32 j) (BitVec.twoPow 32 k) = BitVec.twoPow 32 (j + k - 31) := by
  apply residue_injective (p := p)
  rw [residue_mul32, residue_twoPow p hj, residue_twoPow p hk, residue_twoPow p (by omega), ← pow_add]
  congr 1
  omega

/-- Multiplication by x^8 is a Step with the byte 0 (41_polymul.md R126, shift). -/
theorem mul32_xEight (p a : Word) : mul32 p a 0x00800000#32 = crcStep p a 0#8 := by
  apply residue_injective (p := p)
  rw [residue_mul32, residue_crcStep_zero, mul_comm,
    show (0x00800000#32 : Word) = BitVec.twoPow 32 23 by decide, residue_twoPow p (by decide)]

/-- x^31 · x is x^32, which POLY_REV stands for (00_scope.md R11). -/
theorem mul32_xThirtyOne_x (p : Word) : mul32 p 0x00000001#32 0x40000000#32 = p := by
  apply residue_injective (p := p)
  rw [residue_mul32, ← residueX_pow_32, show (0x00000001#32 : Word) = BitVec.twoPow 32 0 by decide,
    show (0x40000000#32 : Word) = BitVec.twoPow 32 30 by decide, residue_twoPow p (by decide),
    residue_twoPow p (by decide), ← pow_add]

/-! ### The laws of Mul8, as Mul32 by a word with only a high byte -/

@[simp] theorem mul8_zero_right (p c : Word) : mul8 p c 0#8 = 0#32 := by
  rw [mul8_eq_mul32, show (0#8 : Byte).setWidth 32 <<< 24 = 0#32 by decide, mul32_zero_right]

@[simp] theorem mul8_zero_left (p : Word) (v : Byte) : mul8 p 0#32 v = 0#32 := by
  rw [mul8_eq_mul32, mul32_zero_left]

@[simp] theorem mul8_one_right (p c : Word) : mul8 p c 0x80#8 = c := by
  rw [mul8_eq_mul32, show (0x80#8 : Byte).setWidth 32 <<< 24 = 0x80000000#32 by decide, mul32_one_right]

@[simp] theorem mul8_one_left (p : Word) (v : Byte) : mul8 p 0x80000000#32 v = v.setWidth 32 <<< 24 := by
  rw [mul8_eq_mul32, mul32_one_left]

theorem mul8_xor_left (p a c : Word) (v : Byte) : mul8 p (a ^^^ c) v = mul8 p a v ^^^ mul8 p c v := by
  rw [mul8_eq_mul32, mul32_xor_left, ← mul8_eq_mul32, ← mul8_eq_mul32]

/-- x^24 · x^7 is x^31. -/
theorem mul8_xTwentyFour_xSeven (p : Word) : mul8 p 0x00000080#32 0x01#8 = 0x00000001#32 := by
  rw [mul8_eq_mul32, show (0x00000080#32 : Word) = BitVec.twoPow 32 7 by decide,
    show (0x01#8 : Byte).setWidth 32 <<< 24 = BitVec.twoPow 32 24 by decide,
    mul32_twoPow p (by decide) (by decide) (by decide)]
  decide

/-- x^4 · x^4 = x^8: multiplying by 0x08 twice is a Step with the byte 0 (41_polymul.md R127). -/
theorem mul8_xFour_xFour (p c : Word) : mul8 p (mul8 p c 0x08#8) 0x08#8 = crcStep p c 0#8 := by
  have hx : mul32 p (BitVec.twoPow 32 27) (BitVec.twoPow 32 27) = 0x00800000#32 := by
    rw [mul32_twoPow p (by decide) (by decide) (by decide)]
    decide
  rw [mul8_eq_mul32, mul8_eq_mul32, mul32_assoc,
    show (0x08#8 : Byte).setWidth 32 <<< 24 = BitVec.twoPow 32 27 by decide, hx, mul32_xEight]

/-! ### The power of x -/

/-- Powers of x add (41_polymul.md R125). -/
theorem mul32_xpow (p : Word) (m n : ℕ) : mul32 p (xpow p m) (xpow p n) = xpow p (m + n) :=
  residue_injective (p := p) (by
    rw [residue_mul32, residue_xpow, residue_xpow, residue_xpow, ← pow_add, ← Nat.mul_add])

theorem xpow_one (p : Word) : xpow p 1 = 0x00800000#32 := by
  rw [xpow, xpow, ← mul32_xEight, mul32_one_left]

/-- XPow(4) stands for x^32, which is POLY_REV (00_scope.md R11). -/
theorem xpow_four (p : Word) : xpow p 4 = p :=
  residue_injective (p := p) (by rw [residue_xpow, ← residueX_pow_32])

/-- Settles O27: `residue_xpow` brought back from the quotient ring, `mul32_xpow`, and the two values. -/
theorem xPowIsThePowerOfX : Obligations.XPowIsThePowerOfX := fun p m n =>
  ⟨rho32_eq_modByMonic_of_mk ((residue_xpow p n).trans (map_pow _ _ _).symm), mul32_xpow p m n,
    xpow_one p, xpow_four p⟩

/-! ### MUL8 and MUL32 -/

/-- MUL8 stores Mul8 of OPA and OPB[7:0] in RESULT and does nothing else (41_polymul.md R130). -/
theorem exec_mul8 {s : State} {v : Word} (h : mul8 s.cfg.polyRev s.opa (s.opb.extractLsb' 0 8) = v) :
    exec .mul8 s = .next { s with result := v } := h ▸ rfl

/-- MUL32 stores Mul32 of OPA and OPB in RESULT and does nothing else (41_polymul.md R131). -/
theorem exec_mul32 {s : State} {v : Word} (h : mul32 s.cfg.polyRev s.opa s.opb = v) :
    exec .mul32 s = .next { s with result := v } := h ▸ rfl

/-- Settles O28: the laws of Mul32 and Mul8 by name, and the states of `exec_mul8` and `exec_mul32`, which
differ from the given one in RESULT. -/
theorem multiplierAlgebra : Obligations.MultiplierAlgebra :=
  ⟨fun p a v => ⟨mul8_zero_right p a, mul8_zero_left p v, mul32_zero_right p a, mul32_zero_left p a⟩,
    fun p a => ⟨mul32_one_right p a, mul32_one_left p a, mul8_one_right p a⟩,
    mul32_comm, mul32_assoc,
    fun p a b c v => ⟨mul32_xor_left p a c b, mul8_xor_left p a c v⟩,
    mul32_xEight,
    fun _ => ⟨_, _, exec_mul8 rfl, rfl, rfl, exec_mul32 rfl, rfl, rfl⟩⟩

/-- Settles O30: `exec_mul8` with the value Mul8 takes in each corner case. -/
theorem mul8Command : Obligations.Mul8Command := by
  refine ⟨by decide, fun s => exec_mul8 rfl, fun s h => exec_mul8 ?_, fun s hv => exec_mul8 ?_,
    fun s hc => exec_mul8 ?_, fun s hc hv => exec_mul8 ?_, fun s hp hc hb => exec_mul8 ?_⟩
  · rcases h with hv | hc
    · rw [hv, mul8_zero_right]
    · rw [hc, mul8_zero_left]
  · rw [hv, mul8_one_right]
  · rw [hc, mul8_one_left]
  · rw [hc, hv, mul8_xTwentyFour_xSeven]
  · rw [hp, hc, hb]
    decide

/-- The example of 41_polymul.md R131. -/
theorem mul32_example : mul32 0xEDB88320#32 0xDEADBEEF#32 0x12345678#32 = 0xD6048CA5#32 := by
  decide

/-- Settles O31: `exec_mul32` with the value Mul32 takes in each corner case. -/
theorem mul32Command : Obligations.Mul32Command := by
  refine ⟨by decide, fun s => exec_mul32 rfl, fun s h => exec_mul32 ?_, fun s hb => exec_mul32 ?_,
    fun s ha => exec_mul32 ?_, fun s ha hb => exec_mul32 ?_, fun s hp ha hb => exec_mul32 ?_,
    fun s hp h => exec_mul32 ?_⟩
  · rcases h with ha | hb
    · rw [ha, mul32_zero_left]
    · rw [hb, mul32_zero_right]
  · rw [hb, mul32_one_right]
  · rw [ha, mul32_one_left]
  · rw [ha, hb, mul32_xThirtyOne_x]
  · rw [hp, ha, hb]
    decide
  · rcases h with ⟨ha, hb⟩ | ⟨ha, hb⟩
    · rw [hp, ha, hb, mul32_example]
    · rw [hp, ha, hb, mul32_comm, mul32_example]

/-! ### The constant-wiring law -/

/-- Settles O29: the law that holds is `mul8_xFour_xFour` at ONES, and the printed form multiplies 0. -/
theorem constantWiring : Obligations.ConstantWiring := by
  refine ⟨by decide, by decide, ?_, by decide, ?_⟩
  · rw [mul8_xFour_xFour]
    exact not_foldl_crcStep_ones _ [0x00#8]
  · rw [mul8_zero_left, mul8_zero_left]

end Sys2Proof.Machine
end

section
/-! SUM as the checksum of the window (42_window.md R169, R175): a checksum is Unmasked and the
correction for the length, and the ghost window is tracked along every run that keeps the contract. -/

namespace Sys2Proof.Machine
open Claims

/-! ### SUM of a window -/

/-- Step is linear, so folding from `acc` is folding zero bytes from `acc` and the bytes from 0
(40_byte_step.md R103). -/
theorem foldl_crcStep_eq_unmasked_xor (p acc : Word) (win : List Byte) :
    win.foldl (crcStep p) acc
      = unmasked p win ^^^ (List.replicate win.length 0#8).foldl (crcStep p) acc := by
  induction win using List.reverseRecOn with
  | nil => exact BitVec.zero_xor.symm
  | append_singleton win b ih =>
    rw [List.length_append, List.length_singleton, List.replicate_succ', List.foldl_concat,
      List.foldl_concat, unmasked_append_singleton, ih, ← crcStep_xor, BitVec.xor_zero]

/-- The standard checksum is Unmasked corrected by the ZC of its length (42_window.md R175). -/
theorem crc32std_eq_unmasked_xor (p : Word) (win : List Byte) :
    crc32std p win = unmasked p win ^^^ zcOfLength p win.length := by
  rw [crc32std, foldl_crcStep_eq_unmasked_xor, BitVec.xor_assoc]
  rfl

/-- While ZC is that of the length, SUM is the checksum of the window (42_window.md R169). -/
theorem Holds.sumView_eq {win : List Byte} {s : State} (h : Holds win s)
    (hz : s.zc = zcOfLength s.cfg.polyRev s.length.toNat) : sumView s = crc32std s.cfg.polyRev win := by
  obtain ⟨hlen, hcore⟩ := h
  rw [sumView, hcore, hz, hlen, ← crc32std_eq_unmasked_xor]

/-! ### Runs -/

/-- No step changes the configuration (70_reset_and_hazards.md R231). -/
theorem step_cfg {s t : State} (h : step s = .next t) : t.cfg = s.cfg := by
  rcases step_cases h with ⟨_, rfl⟩ | ⟨_, rfl⟩ | ⟨_, _, rfl⟩ | ⟨_, w, i, _, _, he⟩ | ⟨_, w, e, _, _, rfl⟩
  · exact (hostStep_keeps_window (takeTurn s)).1.1.symm
  · rfl
  · rfl
  · exact (exec_frame he).1
  · rfl

theorem contractRun_succ {s t : State} (h : step s = .next t) (k : Nat) (win : List Byte) :
    contractRun (k + 1) win s ↔ contractStep win s ∧ contractRun k (ghostStep win s) t := by
  rw [contractRun, h]

theorem ghostRun_succ {s t : State} (h : step s = .next t) (k : Nat) (win : List Byte) :
    ghostRun (k + 1) win s = ghostRun k (ghostStep win s) t := by
  rw [ghostRun, h]

/-- Along a run that keeps the contract the invariant stays and the ghost window is held (R38). -/
theorem Holds.after_run {k : Nat} {win : List Byte} {s t : State} (hs : MachineInv s) (h : Holds win s)
    (hk : contractRun k win s) (hrun : Sys2Proof.core.run k s = .next t) :
    MachineInv t ∧ Holds (ghostRun k win s) t ∧ t.cfg = s.cfg := by
  induction k generalizing win s with
  | zero => cases hrun; exact ⟨hs, h, rfl⟩
  | succ k ih =>
    obtain ⟨u, hu⟩ := everyStepAnswersANextState s
    obtain ⟨hnow, hlater⟩ := (contractRun_succ hu k win).mp hk
    rw [run_succ (M := Sys2Proof.core) hu] at hrun
    rw [ghostRun_succ hu, ← step_cfg hu]
    exact ih (everyStepKeepsTheInvariant s u hs hu) (stepTracksTheGhostWindow win s u hs h hnow hu) hlater
      hrun

/-- A held window is what SUM and LENGTH tell (R169). -/
theorem Holds.sum_and_length {win : List Byte} {s : State} (h : Holds win s) (hs : MachineInv s) :
    readAnswers 0x014#12 (crc32std s.cfg.polyRev win) s ∧ s.length.toNat = win.length :=
  ⟨readAnswers_sum (h.sumView_eq hs.zcLength), h.1⟩

/-- The reset state with a host program and a schedule meets the invariant. -/
theorem machineInv_resetOf (cfg : Config) (ops : List HostOp) (q : List Agent) :
    MachineInv { State.resetOf cfg with host := ops, sched := q } :=
  (resetMeetsTheInvariant cfg).of_other_fields rfl List.prefix_rfl

/-- Settles O43: `Holds.after_run` from any window, and from the empty window of reset. -/
theorem sumIsTheChecksumOfTheWindow : Obligations.SumIsTheChecksumOfTheWindow := by
  have hrun : ∀ (k : Nat) (win : List Byte) (s t : State), MachineInv s → Holds win s →
      contractRun k win s → Sys2Proof.core.run k s = .next t →
      readAnswers 0x014#12 (crc32std s.cfg.polyRev (ghostRun k win s)) t ∧
        t.length.toNat = (ghostRun k win s).length := fun k win s t hs h hk hr => by
    obtain ⟨ht, hwin, hcfg⟩ := h.after_run hs hk hr
    exact hcfg ▸ hwin.sum_and_length ht
  exact ⟨fun k cfg ops q t => hrun k [] _ t (machineInv_resetOf cfg ops q) (holds_nil rfl rfl), hrun⟩

end Sys2Proof.Machine
end

section
/-! WRESET, the power-of-x cache, and that the window depends on nothing but itself, the configuration
and the buffer bytes used (42_window.md R150, R151, R170). -/

namespace Sys2Proof.Machine
open Claims

/-! ### WRESET -/

/-- The registers of an empty window are those of WRESET, but for the cache. -/
theorem emptyWindow_of_holds_nil {s : State} (hs : MachineInv s) (h : Holds [] s) :
    emptyWindow s = { s with xpc := 0x80000000#32, xpcN := 0 } := by
  obtain ⟨hlen, hcore⟩ := h
  have hl : s.length = 0#64 := BitVec.eq_of_toNat_eq hlen
  have hz : s.zc = 0#32 := by rw [hs.zcLength, hl]; exact zcOfLength_zero _
  have ho : s.oc = s.cfg.polyRev := by rw [hs.ocLength, hl]; exact ocOfLength_zero _
  simp only [emptyWindow, hl, hcore, unmasked_nil, hz, ho]

/-- Settles O34: WRESET is `emptyWindow`, which changes only the cache where the window is empty. -/
theorem wresetCommand : Obligations.WresetCommand :=
  ⟨by decide, fun _ => rfl, fun _ hs h => congrArg Host.Outcome.next (emptyWindow_of_holds_nil hs h),
    fun s hp => ⟨emptyWindow s, rfl, rfl, rfl, rfl, readAnswers_sum BitVec.xor_self, hp⟩⟩

/-! ### The cache -/

theorem cachedPower_hit {s : State} {k : Nat} (h : k = s.xpcN) : cachedPower s k = s.xpc := by
  rw [cachedPower, if_pos h]

theorem cachedPower_grow {s : State} {k : Nat} (h : s.xpcN < k) :
    cachedPower s k = (fun c => crcStep s.cfg.polyRev c 0#8)^[k - s.xpcN] s.xpc := by
  rw [cachedPower, if_neg h.ne', if_pos h]

theorem cachedPower_fresh {s : State} {k : Nat} (h : k < s.xpcN) :
    cachedPower s k = xpow s.cfg.polyRev k := by
  rw [cachedPower, if_neg h.ne, if_neg h.not_gt]

/-- Settles O40: the cached power's value, its three cases, and what `updateWindow_grow` stores. -/
theorem cachedPowerIsXPow : Obligations.CachedPowerIsXPow := by
  refine ⟨fun s k h => cachedPower_eq_xpow h k,
    fun s k => ⟨cachedPower_hit, cachedPower_grow, cachedPower_fresh⟩, fun s m n t h hmn he => ?_⟩
  rw [exec_wupdate_of_ready h, updateWindow_grow m n s (by omega)] at he
  cases he
  exact ⟨rfl, rfl⟩

/-! ### Noninterference -/

theorem cachedPower_congr {s t : State} (h : sameWindow s t) (k : Nat) :
    cachedPower s k = cachedPower t k := by
  obtain ⟨hcfg, _, _, _, _, hxpc, hxpcN⟩ := h
  rw [cachedPower, cachedPower, hcfg, hxpc, hxpcN]

theorem updateCheck_congr {s t : State} (h : sameWindow s t) (m n : Nat) :
    updateCheck m n s = updateCheck m n t := by
  obtain ⟨hcfg, hlen, _⟩ := h
  rw [updateCheck, updateCheck, hcfg, hlen]

theorem oldBytes_congr {s t : State} {m : Nat} (h : ∀ k < m, s.byteAt (0x400 + k) = t.byteAt (0x400 + k)) :
    oldBytes s m = oldBytes t m :=
  List.map_congr_left fun k hk => h k (List.mem_range.mp hk)

theorem newBytes_congr {s t : State} {n : Nat} (h : ∀ k < n, s.byteAt (0x800 + k) = t.byteAt (0x800 + k)) :
    newBytes s n = newBytes t n :=
  List.map_congr_left fun k hk => h k (List.mem_range.mp hk)

theorem updatedCore_congr {s t : State} {m n : Nat} (h : sameWindow s t)
    (hb : sameOperandBytes (.wupdate m n) s t) : updatedCore m n s = updatedCore m n t := by
  obtain ⟨hcfg, _, hcore, _, hoc, _, _⟩ := h
  obtain ⟨hold, hnew⟩ := hb
  rw [updatedCore, updatedCore, oldBytes_congr hold, newBytes_congr hnew, hcfg, hcore, hoc]

/-- An update reads the window, the cache, the configuration and the bytes it uses (R151). -/
theorem sameWindow_updateWindow {s t : State} {m n : Nat} (h : sameWindow s t)
    (hb : sameOperandBytes (.wupdate m n) s t) :
    sameWindow (updateWindow m n s) (updateWindow m n t) := by
  have hnew := updatedCore_congr h hb
  have hx := cachedPower_congr h (n - m)
  obtain ⟨hcfg, hlen, _, hzc, hoc, hxpc, hxpcN⟩ := h
  by_cases hk : n - m = 0
  · rw [updateWindow_hold m n s hk, updateWindow_hold m n t hk]
    exact ⟨hcfg, hlen, hnew, hzc, hoc, hxpc, hxpcN⟩
  · rw [updateWindow_grow m n s hk, updateWindow_grow m n t hk, hcfg, hlen, hzc, hoc, hx]
    exact ⟨hcfg, rfl, hnew, rfl, rfl, rfl, rfl⟩

/-- A command makes the same window of states that agree on what it uses (R151). -/
theorem sameWindow_exec {i : Instr} {s t s' t' : State} (h : sameWindow s t)
    (hb : sameOperandBytes i s t) (hs : exec i s = .next s') (ht : exec i t = .next t') :
    sameWindow s' t' := by
  cases i with
  | wreset =>
    cases hs; cases ht
    exact ⟨h.1, rfl, rfl, rfl, congrArg Config.polyRev h.1, rfl, rfl⟩
  | wupdate m n =>
    change execWupdate m n s = .next s' at hs
    change execWupdate m n t = .next t' at ht
    rw [execWupdate] at hs ht
    rw [← updateCheck_congr h] at ht
    cases hc : updateCheck m n s with
    | some e => rw [hc] at hs ht; cases hs; cases ht; exact h
    | none => rw [hc] at hs ht; cases hs; cases ht; exact sameWindow_updateWindow h hb
  | _ => cases hs; cases ht; exact h

theorem sumView_congr {s t : State} (h : sameWindow s t) : sumView s = sumView t := by
  obtain ⟨_, _, hcore, hzc, _⟩ := h
  rw [sumView, sumView, hcore, hzc]

/-- Commands leave every buffer byte (70_reset_and_hazards.md R245). -/
theorem exec_byteAt {i : Instr} {s t : State} (h : exec i s = .next t) (a : Nat) :
    t.byteAt a = s.byteAt a := by
  obtain ⟨_, _, _, hmem, _, _, _, _, hresets, _⟩ := exec_frame h
  exact byteAt_congr (by rw [hmem]) hresets

/-- So states that agree on a command's bytes still do after other commands. -/
theorem sameOperandBytes_exec {i j : Instr} {s t s' t' : State} (h : sameOperandBytes i s t)
    (hs : exec j s = .next s') (ht : exec j t = .next t') : sameOperandBytes i s' t' := by
  cases i with
  | wupdate m n =>
    simp only [sameOperandBytes, exec_byteAt hs, exec_byteAt ht]
    exact h
  | _ => trivial

theorem execAll_cons {i : Instr} {s t : State} (h : exec i s = .next t) (l : List Instr) :
    execAll (i :: l) s = execAll l t := by
  rw [execAll, h]

/-- A list of commands makes the same window of states that agree on what they use (R151). -/
theorem sameWindow_execAll {l : List Instr} {s t s' t' : State} (h : sameWindow s t)
    (hb : ∀ i ∈ l, sameOperandBytes i s t) (hs : execAll l s = .next s') (ht : execAll l t = .next t') :
    sameWindow s' t' := by
  induction l generalizing s t with
  | nil => cases hs; cases ht; exact h
  | cons i l ih =>
    obtain ⟨u, hu⟩ := exec_next i s
    obtain ⟨v, hv⟩ := exec_next i t
    rw [execAll_cons hu] at hs
    rw [execAll_cons hv] at ht
    obtain ⟨hi, hl⟩ := List.forall_mem_cons.mp hb
    exact ih (sameWindow_exec h hi hu hv) (fun j hj => sameOperandBytes_exec (hl j hj) hu hv) hs ht

/-- Settles O36: WRESET and hardware reset leave the same window, and one command or a list of them make
the same window of states that agree, so the same SUM. -/
theorem windowDependsOnlyOnTheWindow : Obligations.WindowDependsOnlyOnTheWindow := by
  refine ⟨fun s t h => ?_, fun i s t s' t' h hb hs ht => ?_, fun l s t s' t' h hb hs ht => ?_⟩
  · cases h
    exact ⟨rfl, rfl, rfl, rfl, rfl, rfl, rfl⟩
  · have hw := sameWindow_exec h hb hs ht
    exact ⟨hw, sumView_congr hw⟩
  · have hw := sameWindow_execAll h hb hs ht
    exact ⟨hw, sumView_congr hw⟩

end Sys2Proof.Machine
end

section
/-! WUPDATE (42_window.md R162): its two loops, the faults it records, and the state it leaves. -/

namespace Sys2Proof.Machine
open Claims

@[simp] theorem length_oldBytes (s : State) (m : Nat) : (oldBytes s m).length = m := by simp [oldBytes]

@[simp] theorem length_newBytes (s : State) (n : Nat) : (newBytes s n).length = n := by simp [newBytes]

/-! ### The two loops -/

theorem slideCore_append (p oc core : Word) (l l' : List (Byte × Byte)) :
    slideCore p oc (l ++ l') core = slideCore p oc l' (slideCore p oc l core) := List.foldl_append

theorem extendCore_append (p core : Word) (l l' : List Byte) :
    extendCore p (l ++ l') core = extendCore p l' (extendCore p l core) := List.foldl_append

theorem slideCore_map_range (p oc core : Word) (old new : Nat → Byte) (m : Nat) :
    slideCore p oc ((List.range m).map fun i => (old i, new i)) core = pairedCore p oc old new core m := by
  induction m with
  | zero => rfl
  | succ m ih =>
    rw [List.range_succ, List.map_append, slideCore_append, ih]
    rfl

theorem extendCore_map_range (p core : Word) (new : Nat → Byte) (m k : Nat) :
    extendCore p ((List.range k).map fun j => new (m + j)) core = surplusCore p new m core k := by
  induction k with
  | zero => rfl
  | succ k ih =>
    rw [List.range_succ, List.map_append, extendCore_append, ih]
    rfl

theorem zip_oldBytes_newBytes (s : State) {m n : Nat} (h : m ≤ n) :
    (oldBytes s m).zip (newBytes s n)
      = (List.range m).map fun i => (s.byteAt (0x400 + i), s.byteAt (0x800 + i)) := by
  apply List.ext_getElem
  · simpa using h
  · simp [oldBytes, newBytes, oldBase, newBase]

theorem drop_newBytes (s : State) (m n : Nat) :
    (newBytes s n).drop m = (List.range (n - m)).map fun j => s.byteAt (0x800 + (m + j)) := by
  apply List.ext_getElem
  · simp
  · simp [newBytes, newBase]

/-- CORE after an update is that of the rule's two loops (R162). -/
theorem updatedCore_eq_loops (s : State) {m n : Nat} (h : m ≤ n) :
    updatedCore m n s = surplusCore s.cfg.polyRev (fun i => s.byteAt (0x800 + i)) m
      (pairedCore s.cfg.polyRev s.oc (fun i => s.byteAt (0x400 + i)) (fun i => s.byteAt (0x800 + i)) s.core m)
      (n - m) := by
  rw [updatedCore, zip_oldBytes_newBytes s h, drop_newBytes, slideCore_map_range, ← extendCore_map_range]

/-! ### The fault record -/

theorem allWritten_iff (m n : Nat) (s : State) :
    allWritten m n s ↔ ∀ a ∈ usedOffsets m n, s.mem.read a ≠ none := by
  simp only [mem_usedOffsets]
  refine ⟨fun ⟨hold, hnew⟩ a ha => ?_, fun h => ⟨fun i hi => h _ (.inl ⟨i, hi, rfl⟩),
    fun i hi => h _ (.inr ⟨i, hi, rfl⟩)⟩⟩
  rcases ha with ⟨i, hi, rfl⟩ | ⟨i, hi, rfl⟩
  · exact hold i hi
  · exact hnew i hi

/-- An update records a fault exactly when it uses an unwritten byte (10_state.md R34). -/
theorem updateWindow_faults_eq_iff (m n : Nat) (s : State) :
    (updateWindow m n s).faults = s.faults ↔ allWritten m n s := by
  rw [updateWindow_faults, List.append_right_eq_self, List.map_eq_nil_iff, List.filter_eq_nil_iff,
    allWritten_iff]
  simp only [State.unwritten, Option.isNone_iff_eq_none, ne_eq]

/-! ### The command -/

/-- The corrections and the length of a grown window, through the cache's invariant (R162, R170). -/
theorem updateWindow_grow_xpow {s : State} {m n : Nat} (hx : s.xpc = xpow s.cfg.polyRev s.xpcN)
    (hk : n - m ≠ 0) :
    updateWindow m n s =
      { s.recordUnwritten (usedOffsets m n) with
        core := updatedCore m n s
        zc := ~~~(mul32 s.cfg.polyRev (~~~s.zc) (xpow s.cfg.polyRev (n - m)))
        oc := mul32 s.cfg.polyRev (if s.length = 0#64 then 0x00000080#32 else s.oc)
          (xpow s.cfg.polyRev (n - m))
        length := s.length + BitVec.ofNat 64 (n - m)
        xpc := xpow s.cfg.polyRev (n - m)
        xpcN := n - m } := by
  rw [updateWindow_grow m n s hk, cachedPower_eq_xpow hx]

/-- The example of R162: "123456789" appended to the empty window. -/
theorem wupdate_nineDigits : ∃ t, exec (.wupdate 0 9) nineDigits = .next t ∧ t.length = 9#64 ∧
    t.core = 0x2DFD2D88#32 ∧ t.zc = 0xE60914AE#32 ∧ t.oc = 0x6655004F#32 := by
  refine ⟨updateWindow 0 9 nineDigits, rfl, ?_⟩
  decide +kernel

/-- Settles O37: an update that passes its checks is `updateWindow_hold` or `updateWindow_grow_xpow`, with
the loops of `updatedCore_eq_loops`. -/
theorem wupdateCommand : Obligations.WupdateCommand := by
  refine ⟨fun m n hm hn => decode_eq_wupdate.mpr ⟨hm, hn, rfl⟩, fun s m n h hx => ?_, ?_⟩
  · have hexec := exec_wupdate_of_ready h
    have hlen := updateWindow_length_toNat ((updateCheck_eq_none m n s).mpr h)
    obtain ⟨_, _, _, hmn, _⟩ := h
    refine ⟨_, hexec, updatedCore_eq_loops s hmn, fun he => ?_, fun hlt => ?_, updateWindow_frame m n s,
      exec_byteAt hexec, (updateWindow_faults_eq_iff m n s).mpr,
      mt (updateWindow_faults_eq_iff m n s).mp⟩
    · rw [updateWindow_hold m n s (by omega)]
      exact ⟨rfl, rfl, rfl, rfl, rfl⟩
    · refine ⟨?_, ?_, hlen, ?_, ?_⟩ <;> rw [updateWindow_grow_xpow hx (by omega)]
  · obtain ⟨t, he, hl, hc, hz, ho⟩ := wupdate_nineDigits
    exact ⟨t, he, hl, hc, hz, ho, readAnswers_sum (by rw [hc, hz]; rfl)⟩

end Sys2Proof.Machine
end

section
/-! The corner cases of WUPDATE (42_window.md R166, R167). -/

namespace Sys2Proof.Machine
open Claims

@[simp] theorem newBytes_zero (s : State) : newBytes s 0 = [] := rfl

@[simp] theorem oldBytes_zero (s : State) : oldBytes s 0 = [] := rfl

/-- With no old bytes CORE is only extended (R164). -/
theorem updatedCore_zero_left (n : Nat) (s : State) :
    updatedCore 0 n s = extendCore s.cfg.polyRev (newBytes s n) s.core := rfl

/-- An update of no bytes changes nothing (R166). -/
theorem updateWindow_zero_zero (s : State) : updateWindow 0 0 s = s := by
  rw [updateWindow_hold 0 0 s rfl, updatedCore_zero_left, newBytes_zero]
  have hf : s.faults ++ ((usedOffsets 0 0).filter s.unwritten).map Fault.unwrittenByte = s.faults :=
    List.append_nil _
  rw [State.recordUnwritten, hf]
  rfl

theorem updateReady_zero_zero (s : State) : updateReady 0 0 s :=
  ⟨Nat.zero_le _, Nat.zero_le _, Nat.zero_le _, le_rfl, Nat.le_sub_one_of_lt s.length.isLt⟩

/-- An update keeps ZC that of the length (10_state.md R28). -/
theorem updateWindow_zc {s : State} {m n : Nat} (hz : s.zc = zcOfLength s.cfg.polyRev s.length.toNat)
    (hx : s.xpc = xpow s.cfg.polyRev s.xpcN) (hc : updateCheck m n s = none) :
    (updateWindow m n s).zc
      = zcOfLength (updateWindow m n s).cfg.polyRev (updateWindow m n s).length.toNat := by
  rw [updateWindow_length_toNat hc]
  by_cases hk : n - m = 0
  · rw [updateWindow_hold m n s hk, hk]
    exact hz
  · rw [updateWindow_grow_xpow hx hk]
    simp only [recordUnwritten_cfg, hz]
    exact zcOfLength_add ..

/-- SUM after an update that keeps the contract is the checksum of the new window (R169), whatever the
buffers hold and whatever command is in flight. -/
theorem Holds.sumView_updateWindow {win : List Byte} {s : State} {m n : Nat} (h : Holds win s)
    (hz : s.zc = zcOfLength s.cfg.polyRev s.length.toNat)
    (ho : s.oc = ocOfLength s.cfg.polyRev s.length.toNat) (hx : s.xpc = xpow s.cfg.polyRev s.xpcN)
    (hc : updateCheck m n s = none) (hold : oldBytes s m = win.take m) :
    sumView (updateWindow m n s) = crc32std s.cfg.polyRev (win.drop m ++ newBytes s n) := by
  rw [(h.after_updateWindow ho hc hold).sumView_eq (updateWindow_zc hz hx hc), updateWindow_frame]

/-- A pure extension of the empty window (R166), from reset with any buffer contents. -/
theorem sumView_extend_reset (cfg : Config) (mem : Memory) {n : Nat}
    (hc : updateCheck 0 n { State.resetOf cfg with mem := mem } = none) :
    sumView (updateWindow 0 n { State.resetOf cfg with mem := mem })
      = crc32std cfg.polyRev (newBytes { State.resetOf cfg with mem := mem } n) :=
  Holds.sumView_updateWindow (win := []) (s := { State.resetOf cfg with mem := mem }) (holds_nil rfl rfl)
    (zcOfLength_zero _).symm (ocOfLength_zero _).symm rfl hc rfl

/-- All of a window's bytes replaced (R166). -/
theorem sumView_replace_window {s : State} {m : Nat} (hs : MachineInv s) (hc : updateCheck m m s = none)
    (h : Holds (oldBytes s m) s) :
    sumView (updateWindow m m s) = crc32std s.cfg.polyRev (newBytes s m) := by
  have hlen := length_oldBytes s m
  rw [h.sumView_updateWindow hs.zcLength hs.ocLength hs.cachePower hc
    (List.take_of_length_le hlen.le).symm, List.drop_of_length_le hlen.le, List.nil_append]

/-- A WUPDATE whose preconditions do not hold raises an error (log 6). -/
theorem exec_wupdate_of_not_ready {s : State} {m n : Nat} (h : ¬updateReady m n s) :
    ∃ e info, exec (.wupdate m n) s = .next (raiseError e info s) := by
  rcases execWupdate_cases m n s with ⟨e, _, he⟩ | ⟨hc, _⟩
  · exact ⟨e, _, he⟩
  · exact absurd ((updateCheck_eq_none m n s).mp hc) h

/-- Zero bytes appended to CORE = 0 leave it 0 (R166). -/
theorem updatedCore_zeros {s : State} {n : Nat} (hcore : s.core = 0#32)
    (hb : ∀ i < n, s.byteAt (0x800 + i) = 0#8) : updatedCore 0 n s = 0#32 := by
  have hnew : newBytes s n = List.replicate n 0#8 :=
    List.eq_replicate_iff.mpr ⟨length_newBytes s n, fun b hbm => by
      obtain ⟨i, hi, rfl⟩ := List.mem_map.mp hbm
      exact hb i (List.mem_range.mp hi)⟩
  rw [updatedCore_zero_left, hnew, hcore]
  exact unmasked_zeros ..

/-- Settles O38: each case is a lemma about `updateWindow`, which a ready WUPDATE leaves. -/
theorem wupdateCornerCases : Obligations.WupdateCornerCases := by
  refine ⟨fun s => ?_, fun s q r hp _ => ?_, fun s m h => ?_, fun cfg mem n hn => ?_,
    fun s n h hn hl hx => ?_, fun s m hs h _ hw => ?_, fun s m n h => exec_wupdate_of_not_ready h,
    fun s n h hcore hb => ?_, fun s m n h => ?_⟩
  · rw [exec_wupdate_of_ready (updateReady_zero_zero s), updateWindow_zero_zero]
  · have hd : decode 0x00000021#32 = .ok (.wupdate 0 0) := by decide
    rw [step_cmdWrite hp,
      issueCommand_accepted hd ((updateCheck_eq_none 0 0 s).mpr (updateReady_zero_zero s))]
    rfl
  · refine ⟨_, exec_wupdate_of_ready h, ?_⟩
    rw [updateWindow_hold m m s (Nat.sub_self m)]
    rfl
  · have hd := bufDepth_bounds cfg
    have hr : updateReady 0 n { State.resetOf cfg with mem := mem } :=
      ⟨Nat.zero_le _, hn, Nat.zero_le _, Nat.zero_le _, by simp; omega⟩
    exact ⟨_, exec_wupdate_of_ready hr, sumView_extend_reset cfg mem ((updateCheck_eq_none ..).mpr hr)⟩
  · refine ⟨_, exec_wupdate_of_ready h, ?_⟩
    rw [updateWindow_grow_xpow hx (Nat.sub_ne_zero_of_lt hn), hl]
    rfl
  · exact ⟨_, exec_wupdate_of_ready h, sumView_replace_window hs ((updateCheck_eq_none m m s).mpr h) hw⟩
  · exact ⟨_, exec_wupdate_of_ready h, updatedCore_zeros hcore hb⟩
  · have he := exec_wupdate_of_ready h
    exact ⟨_, he, exec_error_fields he (by simp) ((updateCheck_eq_none m n s).mpr h)⟩

end Sys2Proof.Machine
end

section
/-! Sliding or growing at once and byte by byte (42_window.md R168). -/

namespace Sys2Proof.Machine
open Claims

theorem sameVisibleWindow_trans {s t u : State} (h : sameVisibleWindow s t) (h' : sameVisibleWindow t u) :
    sameVisibleWindow s u := by
  obtain ⟨hlen, hcore, hzc, hoc⟩ := h
  obtain ⟨hlen', hcore', hzc', hoc'⟩ := h'
  exact ⟨hlen.trans hlen', hcore.trans hcore', hzc.trans hzc', hoc.trans hoc'⟩

theorem sameVisibleWindow_symm {s t : State} (h : sameVisibleWindow s t) : sameVisibleWindow t s := by
  obtain ⟨hlen, hcore, hzc, hoc⟩ := h
  exact ⟨hlen.symm, hcore.symm, hzc.symm, hoc.symm⟩

/-! ### Sliding -/

/-- The window of `s` after the pairs of old and new bytes have slid through it (R163). -/
def slidBy (pairs : List (Byte × Byte)) (s : State) : State :=
  { s with core := slideCore s.cfg.polyRev s.oc pairs s.core }

/-- A slide by `m` bytes at once leaves `slidBy` of its pairs. -/
theorem updateWindow_slidBy (m : Nat) (s : State) :
    sameVisibleWindow (updateWindow m m s) (slidBy ((oldBytes s m).zip (newBytes s m)) s) := by
  have hdrop : (newBytes s m).drop m = [] := List.drop_of_length_le (length_newBytes s m).le
  rw [updateWindow_hold m m s (Nat.sub_self m), updatedCore, hdrop]
  exact ⟨rfl, rfl, rfl, rfl⟩

/-- Sliding one pair and then more is sliding them all. -/
theorem slidBy_cons {s t : State} (q : Byte × Byte) (rest : List (Byte × Byte)) (hcfg : t.cfg = s.cfg)
    (h : sameVisibleWindow t (slidBy [q] s)) :
    sameVisibleWindow (slidBy rest t) (slidBy (q :: rest) s) := by
  obtain ⟨hlen, hcore, hzc, hoc⟩ := h
  refine ⟨hlen, ?_, hzc, hoc⟩
  change slideCore t.cfg.polyRev t.oc rest t.core = _
  rw [hcfg, hcore, hoc]
  rfl

/-- `s` with an old and a new byte at the start of the buffers, as `slideOneByOne` puts them there. -/
def withPair (q : Byte × Byte) (s : State) : State :=
  { s with mem := (s.mem.write 0x400 q.1).write 0x800 q.2 }

theorem oldBytes_withPair (q : Byte × Byte) (s : State) : oldBytes (withPair q s) 1 = [q.1] := by
  have hread : (withPair q s).mem.read 0x400 = some q.1 := by
    rw [withPair, Memory.read_write_ne _ _ (by decide), Memory.read_write_same]
  exact congrArg (fun b => [b]) (byteAt_of_read hread)

theorem newBytes_withPair (q : Byte × Byte) (s : State) : newBytes (withPair q s) 1 = [q.2] :=
  congrArg (fun b => [b]) (byteAt_of_read (Memory.read_write_same ..))

theorem slideOneByOne_cons {q : Byte × Byte} {s t : State}
    (h : exec (.wupdate 1 1) (withPair q s) = .next t) (rest : List (Byte × Byte)) :
    slideOneByOne (q :: rest) s = slideOneByOne rest t := by
  rw [withPair] at h
  rw [slideOneByOne, h]

theorem exec_slide_one {s : State} (q : Byte × Byte) (h : 0 < s.length.toNat) :
    ∃ t, exec (.wupdate 1 1) (withPair q s) = .next t ∧ t.cfg = s.cfg ∧
      sameVisibleWindow t (slidBy [q] s) := by
  obtain ⟨hd, _⟩ := bufDepth_bounds s.cfg
  have hone : 1 ≤ s.cfg.bufDepth := by omega
  have he := exec_wupdate_of_ready (s := withPair q s)
    ⟨hone, hone, h, le_rfl, Nat.le_sub_one_of_lt s.length.isLt⟩
  have hw := updateWindow_slidBy 1 (withPair q s)
  rw [oldBytes_withPair, newBytes_withPair] at hw
  exact ⟨_, he, (exec_frame he).1, hw⟩

/-- Slides by one byte leave `slidBy` of their pairs; the first needs a byte in the window. -/
theorem slideOneByOne_slidBy {pairs : List (Byte × Byte)} {s : State}
    (h : pairs ≠ [] → 0 < s.length.toNat) :
    ∃ u, slideOneByOne pairs s = .next u ∧ sameVisibleWindow u (slidBy pairs s) := by
  induction pairs generalizing s with
  | nil => exact ⟨s, rfl, rfl, rfl, rfl, rfl⟩
  | cons q rest ih =>
    have hpos := h (List.cons_ne_nil q rest)
    obtain ⟨t, ht, hcfg, hw⟩ := exec_slide_one q hpos
    obtain ⟨u, hu, huw⟩ := ih (s := t) fun _ => by rw [hw.1]; exact hpos
    exact ⟨u, (slideOneByOne_cons ht rest).trans hu, sameVisibleWindow_trans huw (slidBy_cons q rest hcfg hw)⟩

/-! ### Growing -/

/-- The window of `s` grown by the bytes, from the values before (R164), with the seed of R167. -/
def grownBy (bytes : List Byte) (s : State) : State :=
  { s with
    core := extendCore s.cfg.polyRev bytes s.core
    zc := ~~~(mul32 s.cfg.polyRev (~~~s.zc) (xpow s.cfg.polyRev bytes.length))
    oc := if bytes = [] then s.oc
      else mul32 s.cfg.polyRev (if s.length = 0#64 then 0x00000080#32 else s.oc)
        (xpow s.cfg.polyRev bytes.length)
    length := s.length + BitVec.ofNat 64 bytes.length }

/-- An extension by `n` bytes at once leaves `grownBy` of them, also for `n` = 0. -/
theorem updateWindow_grownBy {s : State} (hx : s.xpc = xpow s.cfg.polyRev s.xpcN) (n : Nat) :
    sameVisibleWindow (updateWindow 0 n s) (grownBy (newBytes s n) s) := by
  have hlen := length_newBytes s n
  by_cases hn : n = 0
  · rw [hn, updateWindow_zero_zero]
    refine ⟨(BitVec.add_zero _).symm, rfl, ?_, rfl⟩
    change s.zc = ~~~mul32 _ (~~~s.zc) 0x80000000#32
    rw [mul32_one_right, BitVec.not_not]
  · have hne : newBytes s n ≠ [] := List.ne_nil_of_length_pos (by omega)
    rw [updateWindow_grow_xpow (m := 0) hx hn, grownBy, hlen, if_neg hne]
    exact ⟨rfl, rfl, rfl, rfl⟩

/-- Growing by one byte and then more is growing by them all, while LENGTH does not wrap: powers of x
multiply (41_polymul.md R125). -/
theorem grownBy_cons {s t : State} (b : Byte) (rest : List Byte) (hcfg : t.cfg = s.cfg)
    (hlen : s.length.toNat + 1 ≤ 2 ^ 64 - 1) (h : sameVisibleWindow t (grownBy [b] s)) :
    sameVisibleWindow (grownBy rest t) (grownBy (b :: rest) s) := by
  obtain ⟨hl, hcore, hzc, hoc⟩ := h
  have hpow : ∀ a, mul32 s.cfg.polyRev (mul32 s.cfg.polyRev a (xpow s.cfg.polyRev 1))
      (xpow s.cfg.polyRev rest.length) = mul32 s.cfg.polyRev a (xpow s.cfg.polyRev (b :: rest).length) :=
    fun a => by rw [mul32_assoc, mul32_xpow, Nat.add_comm, List.length_cons]
  refine ⟨?_, ?_, ?_, ?_⟩
  · change t.length + _ = _
    rw [hl]
    change s.length + _ + _ = s.length + _
    rw [BitVec.add_assoc, ← BitVec.ofNat_add, Nat.add_comm, List.length_singleton, List.length_cons]
  · change extendCore t.cfg.polyRev rest t.core = _
    rw [hcfg, hcore]
    rfl
  · change ~~~mul32 t.cfg.polyRev (~~~t.zc) _ = _
    rw [hcfg, hzc]
    change ~~~mul32 _ (~~~~~~mul32 _ (~~~s.zc) (xpow _ 1)) _ = _
    rw [BitVec.not_not, hpow]
    rfl
  · have ht : t.length ≠ 0#64 := fun h0 => by
      have := length_add_toNat hlen
      rw [show s.length + BitVec.ofNat 64 1 = t.length from hl.symm, h0] at this
      simp at this
    change (if rest = [] then t.oc else mul32 t.cfg.polyRev (if t.length = 0#64 then _ else t.oc) _)
      = mul32 _ (if s.length = 0#64 then _ else s.oc) _
    rw [if_neg ht, ← hpow, ← show t.oc = mul32 _ _ (xpow _ 1) from hoc, hcfg]
    split
    next hr => rw [hr]; exact (mul32_one_right ..).symm
    next => rfl

/-- The cache's invariant after an update (10_state.md R36). -/
theorem updateWindow_cachePower {s : State} (hx : s.xpc = xpow s.cfg.polyRev s.xpcN) (m n : Nat) :
    (updateWindow m n s).xpc = xpow (updateWindow m n s).cfg.polyRev (updateWindow m n s).xpcN := by
  by_cases hk : n - m = 0
  · rw [updateWindow_hold m n s hk]; exact hx
  · rw [updateWindow_grow_xpow hx hk]; rfl

/-- `s` with a byte at the start of NEWBUF, as `growOneByOne` puts it there. -/
def withNewByte (b : Byte) (s : State) : State := { s with mem := s.mem.write 0x800 b }

theorem newBytes_withNewByte (b : Byte) (s : State) : newBytes (withNewByte b s) 1 = [b] :=
  congrArg (fun c => [c]) (byteAt_of_read (Memory.read_write_same ..))

theorem growOneByOne_cons {b : Byte} {s t : State}
    (h : exec (.wupdate 0 1) (withNewByte b s) = .next t) (rest : List Byte) :
    growOneByOne (b :: rest) s = growOneByOne rest t := by
  rw [withNewByte] at h
  rw [growOneByOne, h]

theorem exec_grow_one {s : State} (b : Byte) (hx : s.xpc = xpow s.cfg.polyRev s.xpcN)
    (hlen : s.length.toNat + 1 ≤ 2 ^ 64 - 1) :
    ∃ t, exec (.wupdate 0 1) (withNewByte b s) = .next t ∧ t.cfg = s.cfg ∧
      t.xpc = xpow t.cfg.polyRev t.xpcN ∧ sameVisibleWindow t (grownBy [b] s) := by
  obtain ⟨hd, _⟩ := bufDepth_bounds s.cfg
  have hone : 1 ≤ s.cfg.bufDepth := by omega
  have he := exec_wupdate_of_ready (s := withNewByte b s)
    ⟨Nat.zero_le _, hone, Nat.zero_le _, Nat.zero_le _, hlen⟩
  have hw := updateWindow_grownBy (s := withNewByte b s) hx 1
  rw [newBytes_withNewByte] at hw
  exact ⟨_, he, (exec_frame he).1, updateWindow_cachePower hx 0 1, hw⟩

/-- Growths by one byte leave `grownBy` of their bytes, while LENGTH does not wrap. -/
theorem growOneByOne_grownBy {bytes : List Byte} {s : State} (hx : s.xpc = xpow s.cfg.polyRev s.xpcN)
    (hlen : s.length.toNat + bytes.length ≤ 2 ^ 64 - 1) :
    ∃ u, growOneByOne bytes s = .next u ∧ sameVisibleWindow u (grownBy bytes s) := by
  induction bytes generalizing s with
  | nil => exact ⟨s, rfl, updateWindow_zero_zero s ▸ updateWindow_grownBy hx 0⟩
  | cons b rest ih =>
    rw [List.length_cons] at hlen
    have hone : s.length.toNat + 1 ≤ 2 ^ 64 - 1 := by omega
    obtain ⟨t, ht, hcfg, htx, hw⟩ := exec_grow_one b hx hone
    have htl : t.length.toNat = s.length.toNat + 1 := hw.1 ▸ length_add_toNat hone
    obtain ⟨u, hu, huw⟩ := ih htx (by omega)
    exact ⟨u, (growOneByOne_cons ht rest).trans hu,
      sameVisibleWindow_trans huw (grownBy_cons b rest hcfg hone hw)⟩

/-- Settles O39: at once and byte by byte, a slide leaves `slidBy` and a growth leaves `grownBy`. -/
theorem strideInvariance : Obligations.StrideInvariance := by
  refine ⟨fun s m h _ => ?_, fun s n h hx => ?_⟩
  · obtain ⟨_, _, hm, _⟩ := id h
    have hpos : (oldBytes s m).zip (newBytes s m) ≠ [] → 0 < s.length.toNat := fun hne => by
      rcases Nat.eq_zero_or_pos m with rfl | h0
      · exact absurd rfl hne
      · omega
    obtain ⟨u, hu, hw⟩ := slideOneByOne_slidBy hpos
    exact ⟨_, u, exec_wupdate_of_ready h, hu,
      sameVisibleWindow_trans (updateWindow_slidBy m s) (sameVisibleWindow_symm hw)⟩
  · have hlen := length_newBytes s n
    obtain ⟨_, _, _, _, hl⟩ := id h
    obtain ⟨u, hu, hw⟩ := growOneByOne_grownBy (bytes := newBytes s n) hx (by omega)
    exact ⟨_, u, exec_wupdate_of_ready h, hu,
      sameVisibleWindow_trans (updateWindow_grownBy hx n) (sameVisibleWindow_symm hw)⟩

end Sys2Proof.Machine
end

section
/-! The control commands NOP and CLRERR (43_control.md R190, R191), and what they, WRESET and WUPDATE
leave unchanged. -/

namespace Sys2Proof.Machine
open Claims

/-! ### What the commands without a result leave -/

/-- A command that is not arithmetic leaves OPA, OPB, RESULT, PEND, the configuration and every buffer
byte (10_state.md R22 to R24, 70_reset_and_hazards.md R245). -/
theorem exec_leaves_operands_and_bytes {i : Instr} {s t : State} (h : exec i s = .next t)
    (hi : i ∉ [Instr.bstep, .mul8, .mul32]) :
    t.opa = s.opa ∧ t.opb = s.opb ∧ t.result = s.result ∧ t.pend = s.pend ∧ t.cfg = s.cfg ∧
      ∀ a, t.mem.read a = s.mem.read a ∧ t.byteAt a = s.byteAt a := by
  obtain ⟨hcfg, hopa, hopb, hmem, hpend, _⟩ := exec_frame h
  exact ⟨hopa, hopb, exec_result h hi, hpend, hcfg, fun a => ⟨by rw [hmem], exec_byteAt h a⟩⟩

/-- CLRERR and WRESET record no fault (10_state.md R15). -/
theorem exec_clrerr_or_wreset_faults {i : Instr} (hi : i ∈ [Instr.clrerr, .wreset]) {s t : State}
    (h : exec i s = .next t) : t.faults = s.faults := by
  simp only [List.mem_cons, List.not_mem_nil, or_false] at hi
  rcases hi with rfl | rfl <;> cases h <;> rfl

/-- A WUPDATE whose preconditions do not hold leaves the window and its cache (log 6). -/
theorem exec_wupdate_not_ready_keeps_window {m n : Nat} {s t : State}
    (h : exec (.wupdate m n) s = .next t) (hr : ¬updateReady m n s) : sameWindow s t := by
  obtain ⟨e, info, he⟩ := exec_wupdate_of_not_ready hr
  cases he.symm.trans h
  exact ⟨rfl, rfl, rfl, rfl, rfl, rfl, rfl⟩

/-- Settles O45: the frame that the four commands share, and for each what it leaves of the error fields,
the window and the cache. -/
theorem controlAndWindowFrames : Obligations.ControlAndWindowFrames := by
  refine fun s t => ⟨fun h => ?nop, fun i hi h => ?shared, fun h => ?clrerr, fun h => ?wreset,
    fun m n h => ?wupdate⟩
  case nop => cases h; rfl
  case shared =>
    have hn : ∀ j ∈ [Instr.clrerr, .wreset], j ∉ [Instr.bstep, .mul8, .mul32] := by decide
    obtain ⟨hopa, hopb, hresult, hpend, hcfg, hbytes⟩ := exec_leaves_operands_and_bytes h (hn i hi)
    exact ⟨hopa, hopb, hresult, hpend, hcfg, exec_clrerr_or_wreset_faults hi h, hbytes⟩
  case clrerr =>
    obtain ⟨_, hwindow⟩ := exec_keeps_window h nofun nofun
    simp [hwindow]
  case wreset => exact exec_error_fields h nofun rfl
  case wupdate =>
    obtain ⟨hopa, hopb, hresult, hpend, hcfg, hbytes⟩ := exec_leaves_operands_and_bytes h (by simp)
    refine ⟨hopa, hopb, hresult, hpend, hcfg, hbytes, fun hr => ?_, fun hr => ?_⟩
    · exact exec_error_fields h nofun ((updateCheck_eq_none m n s).mpr hr)
    · obtain ⟨_, hwindow⟩ := exec_wupdate_not_ready_keeps_window h hr
      simp [hwindow]

/-! ### NOP and CLRERR -/

/-- Settles O32: NOP has no acceptance check, and the engine's step is `step_completes` at its word. -/
theorem nopCommand : Obligations.NopCommand := by
  have hd : decode 0x00000000#32 = .ok .nop := by decide
  refine ⟨hd, fun _ => rfl, fun s q r hp => ?_, fun s q => step_completes rfl rfl hd⟩
  rw [step_cmdWrite hp, issueCommand_accepted hd rfl]
  rfl

/-- With ERR = 0 there is nothing to clear, for ERRCODE and ERRINFO are 0 then (10_state.md R30, R31). -/
theorem MachineInv.clearError_eq_self {s : State} (hs : MachineInv s) (he : s.err = false) :
    clearError s = s := by
  obtain ⟨hcode, hinfo⟩ := hs.errorClear he
  rw [clearError, ← he, ← hcode, ← hinfo]

/-- With no command in flight STATUS is 0 once the error is cleared (10_state.md R30). -/
theorem statusWord_clearError {s : State} (hp : s.pend = none) : statusWord (clearError s) = 0#32 := by
  rw [statusWord, State.busy, clearError_pend, clearError_errcode, clearError_err, hp]
  rfl

/-- Settles O33: CLRERR is `clearError`, and the two registers are read after it. -/
theorem clrerrCommand : Obligations.ClrerrCommand :=
  ⟨by decide, fun _ => rfl, fun _ hs he => congrArg Host.Outcome.next (hs.clearError_eq_self he),
    fun s hp => ⟨clearError s, rfl, statusWord_clearError hp ▸ readAnswers_register .status (clearError s),
      readAnswers_register .errinfo (clearError s), rfl⟩⟩

end Sys2Proof.Machine
end

section
/-! Errors (60_exceptions.md R200 to R206): what a step can do to ERR, ERRCODE, ERRINFO and the fault
record, said once, and what STATUS reports of it. -/

namespace Sys2Proof.Machine
open Claims

/-- Settles O6: `recorded` writes out the update that `raiseError` makes with each error's code. -/
theorem errorCodesAndRecording : Obligations.ErrorCodesAndRecording := fun _ _ =>
  ⟨rfl, rfl, rfl, rfl, rfl, rfl, rfl⟩

/-! ### What changes the error record -/

/-- ERR, ERRCODE, ERRINFO and the fault record of `t` are those of `s`. -/
def sameErrorRecord (s t : State) : Prop :=
  t.err = s.err ∧ t.errcode = s.errcode ∧ t.errinfo = s.errinfo ∧ t.faults = s.faults

/-- The error record of `t` is that of `s` after some use of buffer bytes, which records the unwritten
ones (10_state.md R34). -/
def OnlyUsesBytes (s t : State) : Prop := ∃ used, sameErrorRecord (s.recordUnwritten used) t

/-- The error record of `t` is that of `s` after some error (60_exceptions.md R204). -/
def RaisesAnError (s t : State) : Prop := ∃ e info, sameErrorRecord (raiseError e info s) t

theorem OnlyUsesBytes.of_same {s t : State} (h : sameErrorRecord s t) : OnlyUsesBytes s t :=
  ⟨[], by rwa [recordUnwritten_of_written (List.forall_mem_nil _)]⟩

theorem OnlyUsesBytes.error_fields {s t : State} (h : OnlyUsesBytes s t) :
    t.err = s.err ∧ t.errcode = s.errcode ∧ t.errinfo = s.errinfo := by
  obtain ⟨_, herr, hcode, hinfo, _⟩ := h
  exact ⟨herr, hcode, hinfo⟩

/-- An accepted command but CLRERR does nothing to the error record but record the unwritten bytes it
uses (60_exceptions.md R200). -/
theorem exec_accepted_error_record {i : Instr} {s t : State} (h : exec i s = .next t) (hi : i ≠ .clrerr)
    (hc : acceptCheck i s = none) : OnlyUsesBytes s t := by
  obtain ⟨herr, hcode, hinfo⟩ := exec_error_fields h hi hc
  cases i with
  | wupdate m n =>
    have hu := exec_wupdate_of_ready ((updateCheck_eq_none m n s).mp hc)
    cases h.symm.trans hu
    exact ⟨usedOffsets m n, herr, hcode, hinfo, updateWindow_faults m n s⟩
  | clrerr => exact absurd rfl hi
  | _ => cases h; exact .of_same ⟨rfl, rfl, rfl, rfl⟩

theorem exec_error_record {i : Instr} {s t : State} (h : exec i s = .next t) (hi : i ≠ .clrerr) :
    OnlyUsesBytes s t ∨ RaisesAnError s t := by
  by_cases hc : acceptCheck i s = none
  · exact .inl (exec_accepted_error_record h hi hc)
  · cases i with
    | wupdate m n =>
      obtain ⟨e, info, he⟩ := exec_wupdate_of_not_ready (mt (updateCheck_eq_none m n s).mpr hc)
      cases h.symm.trans he
      exact .inr ⟨e, info, rfl, rfl, rfl, rfl⟩
    | _ => exact absurd rfl hc

theorem access_error_record (x : Transaction) (s : State) :
    OnlyUsesBytes s (access x s) ∨ RaisesAnError s (access x s) := by
  rcases access_cases x s with ⟨v, used, h⟩ | ⟨e, addr, a, h⟩ | ⟨_, w, h⟩ | ⟨_, w, h⟩ | ⟨_, w, h⟩ |
    ⟨_, addr, w, _, _, _, h⟩ <;> rw [h]
  case inl => exact .inl ⟨used, rfl, rfl, rfl, rfl⟩
  case inr.inl => exact .inr ⟨e, addr.setWidth 32, rfl, rfl, rfl, rfl⟩
  case inr.inr.inl =>
    rcases issueCommand_cases w s with ⟨e, hi⟩ | ⟨_, _, _, hi⟩ <;> rw [hi]
    · exact .inr ⟨e, w, rfl, rfl, rfl, rfl⟩
    · exact .inl (.of_same ⟨rfl, rfl, rfl, rfl⟩)
  all_goals exact .inl (.of_same ⟨rfl, rfl, rfl, rfl⟩)

theorem hostStep_error_record (s : State) :
    OnlyUsesBytes s (hostStep s) ∨ RaisesAnError s (hostStep s) := by
  rcases hostStep_eq_access s with h | ⟨x, ops, h⟩ <;> rw [h]
  · exact .inl (.of_same ⟨rfl, rfl, rfl, rfl⟩)
  · exact access_error_record x s

/-- What one step does to the error record: CLRERR's completion and hardware reset clear the error, and
every other step uses buffer bytes or raises an error (60_exceptions.md R204, R205). -/
theorem step_error_cases {s t : State} (h : step s = .next t) :
    (completing s = some .clrerr ∧ t = clearError (complete (takeTurn s))) ∨
    (nextAgent s = .reset ∧ t = hardwareReset (takeTurn s)) ∨
    (completing s ≠ some .clrerr ∧ nextAgent s ≠ .reset ∧ (OnlyUsesBytes s t ∨ RaisesAnError s t)) := by
  by_cases hc : completing s = some .clrerr
  · cases h.symm.trans (step_of_completing hc)
    exact .inl ⟨hc, rfl⟩
  rcases step_cases h with ⟨ha, rfl⟩ | hr | ⟨ha, _, rfl⟩ | ⟨ha, w, i, hp, hd, he⟩ | ⟨ha, w, e, _, _, rfl⟩
  case inr.inl => exact .inr (.inl hr)
  all_goals refine .inr (.inr ⟨hc, by rw [ha]; exact nofun, ?_⟩)
  · exact hostStep_error_record (takeTurn s)
  · exact .inl (.of_same ⟨rfl, rfl, rfl, rfl⟩)
  · have hi : i ≠ .clrerr := fun hi => hc ((completing_eq_some s _).mpr ⟨ha, w, hp, hi ▸ hd⟩)
    exact (exec_error_record he hi :)
  · exact .inr ⟨.illegalCommand, w, rfl, rfl, rfl, rfl⟩

/-! ### The first error and the fault record -/

/-- While ERR is 1 a further error leaves ERRCODE and ERRINFO (60_exceptions.md R205). -/
theorem RaisesAnError.keeps_first {s t : State} (h : RaisesAnError s t) (hs : s.err = true) :
    t.err = true ∧ t.errcode = s.errcode ∧ t.errinfo = s.errinfo := by
  obtain ⟨e, info, herr, hcode, hinfo, _⟩ := h
  exact ⟨herr, by simp [hcode, hs], by simp [hinfo, hs]⟩

/-- With ERR = 0 an error's own info is captured and recorded (60_exceptions.md R204, R206). -/
theorem RaisesAnError.records {s t : State} (h : RaisesAnError s t) (hs : s.err = false) :
    ∃ e, Fault.error e t.errinfo ∈ t.faults := by
  obtain ⟨e, info, _, _, hinfo, hfaults⟩ := h
  exact ⟨e, by simp [hinfo, hfaults, hs]⟩

/-- Settles O8: of the steps of `step_error_cases`, the two that clear are the two that are named. -/
theorem firstErrorIsKept : Obligations.FirstErrorIsKept := by
  intro s t hs h
  rcases step_error_cases h with ⟨hc, rfl⟩ | ⟨hr, rfl⟩ | ⟨hc, hr, hrec⟩
  · exact ⟨fun hn => absurd hc hn, fun _ => ⟨rfl, rfl, rfl⟩⟩
  · exact ⟨fun _ hn => absurd hr hn, fun _ => ⟨rfl, rfl, rfl⟩⟩
  · refine ⟨fun _ _ => ?_, fun hn => (hn.elim hc hr).elim⟩
    rcases hrec with huse | hraise
    · exact hs ▸ huse.error_fields
    · exact hraise.keeps_first hs

/-- Settles O9: clearing leaves the record, a use or an error appends to it, and only an error sets ERR. -/
theorem faultRecordIsNeverCleared : Obligations.FaultRecordIsNeverCleared := by
  intro s t h
  rcases step_error_cases h with ⟨_, rfl⟩ | ⟨_, rfl⟩ | ⟨_, _, ⟨_, herr, _, _, hfaults⟩ | hraise⟩
  · exact ⟨⟨[], (List.append_nil _).symm⟩, fun _ ht => by cases ht⟩
  · exact ⟨⟨[], (List.append_nil _).symm⟩, fun _ ht => by cases ht⟩
  · exact ⟨⟨_, hfaults⟩, fun hs ht => by simp [herr, hs] at ht⟩
  · have ⟨_, _, _, _, _, hfaults⟩ := hraise
    exact ⟨⟨_, hfaults⟩, fun hs _ => hraise.records hs⟩

/-! ### The engine's step -/

/-- In a state that meets the invariant the engine has nothing to do or completes a command whose checks
passed at acceptance (30_encoding.md R84). -/
theorem MachineInv.engine_step_cases {s t : State} (hs : MachineInv s) (ha : nextAgent s = .engine)
    (h : step s = .next t) :
    t = takeTurn s ∨ ∃ i, completing s = some i ∧ acceptCheck i (complete (takeTurn s)) = none ∧
      exec i (complete (takeTurn s)) = .next t := by
  rcases step_cases h with ⟨hh, _⟩ | ⟨hr, _⟩ | ⟨_, _, ht⟩ | ⟨_, w, i, hp, hd, he⟩ | ⟨_, w, e, hp, hd, _⟩
  · exact nomatch ha.symm.trans hh
  · exact nomatch ha.symm.trans hr
  · exact .inl ht
  · obtain ⟨j, hj, hc⟩ := hs.pending w hp
    cases hd.symm.trans hj
    exact .inr ⟨i, (completing_eq_some s i).mpr ⟨ha, w, hp, hd⟩,
      (acceptCheck_congr (s := s) rfl rfl i).trans hc, he⟩
  · obtain ⟨j, hj, _⟩ := hs.pending w hp
    cases hd.symm.trans hj

/-- Every fault that a use of buffer bytes adds is an unwritten byte (10_state.md R34). -/
theorem OnlyUsesBytes.new_fault {s t : State} (h : OnlyUsesBytes s t) :
    ∀ f ∈ t.faults, f ∈ s.faults ∨ ∃ a, f = .unwrittenByte a := by
  obtain ⟨used, _, _, _, hfaults⟩ := h
  intro f hf
  rw [hfaults, recordUnwritten_faults] at hf
  refine (List.mem_append.mp hf).imp_right fun hu => ?_
  obtain ⟨a, _, rfl⟩ := List.mem_map.mp hu
  exact ⟨a, rfl⟩

/-- Settles O10: the engine's step uses buffer bytes at most, but for CLRERR, which adds no fault. -/
theorem completionRaisesNoError : Obligations.CompletionRaisesNoError := by
  intro s t hs ha h
  rcases hs.engine_step_cases ha h with rfl | ⟨i, hi, hc, he⟩
  · exact ⟨fun _ => ⟨rfl, rfl, rfl⟩, fun _ hf => .inl hf⟩
  by_cases hclr : i = .clrerr
  · subst hclr
    cases he
    exact ⟨fun hn => absurd hi hn, fun _ hf => .inl hf⟩
  · have hu : OnlyUsesBytes s t := (exec_accepted_error_record he hclr hc :)
    exact ⟨fun _ => hu.error_fields, hu.new_fault⟩

/-! ### STATUS -/

/-- Bit 1 of STATUS is ERR, and bits 7:4 are ERRCODE (10_state.md R30). -/
theorem statusWord_err_and_errcode (s : State) :
    (statusWord s).getLsbD 1 = s.err ∧ (statusWord s).extractLsb' 4 4 = s.errcode := by
  have hfields : ∀ (c : BitVec 4) (e b : Bool),
      (0#24 ++ c ++ 0#2 ++ BitVec.ofBool e ++ BitVec.ofBool b).getLsbD 1 = e ∧
        (0#24 ++ c ++ 0#2 ++ BitVec.ofBool e ++ BitVec.ofBool b).extractLsb' 4 4 = c := by decide
  exact hfields s.errcode s.err s.busy

/-- Settles O19: a read of STATUS answers `statusWord`, whose fields are ERR and ERRCODE. -/
theorem errcodeIsZeroOrOneToSeven : Obligations.ErrcodeIsZeroOrOneToSeven := by
  intro s hs
  obtain ⟨herr, hcode⟩ := statusWord_err_and_errcode s
  refine ⟨statusWord s, readAnswers_register .status s, ?_, ?_⟩ <;> rw [herr, hcode]
  · exact fun he => (hs.errorClear he).1
  · exact hs.errorCode

end Sys2Proof.Machine
end

section
/-! Hardware reset, races and persistence (70_reset_and_hazards.md): what reset leaves and WRESET does
not, what no step changes, which steps write a buffer byte, and how a completion and the host's
operations follow one another. -/

namespace Sys2Proof.Machine
open Claims

/-! ### Hardware reset -/

/-- With a reset next in the schedule the step is a hardware reset (R230). -/
theorem step_reset_scheduled (s : State) (q : List Agent) :
    step { s with sched := .reset :: q } = .next (hardwareReset { s with sched := q }) := rfl

/-- Hardware reset and WRESET leave the same window and cache (R232). -/
theorem sameWindow_emptyWindow_hardwareReset (s : State) (q : List Agent) :
    sameWindow (emptyWindow s) (hardwareReset { s with sched := q }) :=
  ⟨rfl, rfl, rfl, rfl, rfl, rfl, rfl⟩

/-- Settles O35: the two steps are `emptyWindow` and `hardwareReset`, which meet in
`sameWindow_emptyWindow_hardwareReset`. -/
theorem hardwareResetAgainstWreset : Obligations.HardwareResetAgainstWreset := fun s q =>
  ⟨_, _, rfl, step_reset_scheduled s q, sameWindow_emptyWindow_hardwareReset s q, rfl, rfl, rfl, rfl, rfl,
    rfl, rfl, rfl, Memory.read_nil, rfl, rfl, rfl, rfl, rfl, rfl, rfl, rfl⟩

/-- POLY_REV is x^32 mod G (00_scope.md R11), the OC of the empty window. -/
theorem rho32_polyRev (p : Word) : rho32 p = Polynomial.X ^ 32 %ₘ generator p :=
  rho32_eq_modByMonic_of_mk (by rw [map_pow, mk_X, residueX_pow_32])

/-- After hardware reset STATUS is 0 (10_state.md R39). -/
theorem statusWord_hardwareReset (s : State) : statusWord (hardwareReset s) = 0#32 := by
  rw [statusWord, State.busy, hardwareReset_errcode, hardwareReset_err, hardwareReset_pend]
  decide

/-- Settles O48: the fields of `hardwareReset`, and the reads of the registers of that state. -/
theorem hardwareResetValues : Obligations.HardwareResetValues := fun s q =>
  ⟨_, step_reset_scheduled s q, rfl, rfl, rfl, rfl, rfl, rfl, rfl, readAnswers_sum BitVec.xor_self,
    statusWord_hardwareReset _ ▸ readAnswers_register .status _, rfl, readAnswers_register .poly _,
    Memory.read_nil, rfl, rfl, rfl, rho32_polyRev _⟩

/-- Settles O49: `step_cfg`, and a read of POLY answers the configuration's POLY_REV. -/
theorem configurationNeverChanges : Obligations.ConfigurationNeverChanges := fun _ t h =>
  ⟨step_cfg h, step_cfg h ▸ readAnswers_register .poly t⟩

/-! ### The engine's step -/

/-- The engine's step leaves no command in flight and touches neither the buffers nor the host's
operations, whether it completes a command, refuses a word or has nothing to do (10_state.md R37). -/
theorem engine_step_frame {s t : State} (ha : nextAgent s = .engine) (h : step s = .next t) :
    t.pend = none ∧ t.mem = s.mem ∧ t.resets = s.resets ∧ t.host = s.host ∧ t.sched = s.sched.tail := by
  rcases step_cases h with ⟨hh, _⟩ | ⟨hr, _⟩ | ⟨_, hp, rfl⟩ | ⟨_, w, i, _, _, he⟩ | ⟨_, w, e, _, _, rfl⟩
  · exact nomatch ha.symm.trans hh
  · exact nomatch ha.symm.trans hr
  · exact ⟨hp, rfl, rfl, rfl, rfl⟩
  · obtain ⟨_, _, _, hmem, hpend, hhost, hsched, _, hresets, _⟩ := exec_frame he
    exact ⟨hpend, hmem, hresets, hhost, hsched⟩
  · exact ⟨rfl, rfl, rfl, rfl, rfl⟩

/-! ### Buffer bytes -/

/-- A transaction leaves the buffers or is a write of one of their words (20_memory.md R59). -/
theorem access_mem (x : Transaction) (s : State) :
    (access x s).mem = s.mem ∨ ∃ addr w, x = .write addr .four w ∧ isBufferWord s.cfg addr ∧
      (access x s).mem = s.mem.writeWord addr.toNat w := by
  rcases access_cases x s with ⟨v, used, h⟩ | ⟨e, addr, a, h⟩ | ⟨_, w, h⟩ | ⟨_, w, h⟩ | ⟨_, w, h⟩ |
    ⟨_, addr, w, hx, halign, hbyte, h⟩ <;> rw [h]
  case inr.inr.inl =>
    rcases issueCommand_cases w s with ⟨e, hi⟩ | ⟨i, _, _, hi⟩ <;> rw [hi] <;> exact .inl rfl
  case inr.inr.inr.inr.inr =>
    exact .inr ⟨addr, w, hx, ⟨halign, (isBufferByte_iff _ _).mp hbyte⟩, rfl⟩
  all_goals exact .inl rfl

/-- The host's step leaves the buffers or is its next transaction, a write of one of their words. -/
theorem hostStep_mem (s : State) :
    (hostStep s).mem = s.mem ∨ ∃ addr w rest, s.host = .tx (.write addr .four w) :: rest ∧
      isBufferWord s.cfg addr ∧ (hostStep s).mem = s.mem.writeWord addr.toNat w := by
  rcases hostStep_cases s with ⟨_, h⟩ | ⟨x, rest, hhost, h⟩ | ⟨addr, mask, value, rest, _, h⟩ <;> rw [h]
  · exact .inl rfl
  · refine (access_mem x s).imp_right ?_
    rintro ⟨addr, w, rfl, hword, hmem⟩
    exact ⟨addr, w, rest, hhost, hword, hmem⟩
  · rcases access_mem (.read addr .four) s with hmem | ⟨_, _, hx, _⟩
    · exact .inl hmem
    · exact nomatch hx

/-- Settles O51: `engine_step_frame` for the engine, `hostStep_mem` for the host, whose word write leaves
every byte outside the word. -/
theorem bufferBytesPersist : Obligations.BufferBytesPersist := by
  refine ⟨fun s t ha h a => ?engine, fun s t a ha h hne => ?host, fun s t a ha h => ?reset⟩
  case engine =>
    obtain ⟨_, hmem, hresets, _⟩ := engine_step_frame ha h
    have hread : t.mem.read a = s.mem.read a := by rw [hmem]
    exact ⟨hread, byteAt_congr hread hresets⟩
  case host =>
    cases (step_host ha).symm.trans h
    rcases hostStep_mem (takeTurn s) with hmem | ⟨addr, w, rest, hhost, hword, hmem⟩ <;> rw [hmem] at hne
    · exact absurd rfl hne
    · refine ⟨addr, w, rest, hhost, hword, ?_⟩
      by_contra hout
      exact hne (Memory.read_writeWord_outside _ w (by omega))
  case reset =>
    cases (step_reset ha).symm.trans h
    exact Memory.read_nil a

/-! ### A write that races a completion -/

theorem run_two {s u t : State} (hs : step s = .next u) (hu : step u = .next t) :
    Sys2Proof.core.run 2 s = .next t :=
  (run_succ (M := Sys2Proof.core) hs 1).trans (run_succ (M := Sys2Proof.core) hu 0)

/-- A state whose schedule and operations are those of a host's turn is that turn. -/
theorem eq_hostTurn {s : State} {q : List Agent} {r : List HostOp} {x : Transaction}
    (hs : s.sched = .host :: q) (hh : s.host = .tx x :: r) : s = hostTurn q r x s := by
  rw [hostTurn, ← hs, ← hh]

/-- Settles O16: before the completion the write meets the interlock, and after it, by
`engine_step_frame`, no command in flight. -/
theorem writeRacingACompletion : Obligations.WriteRacingACompletion := by
  intro s v hp
  refine ⟨step_write_busy (offset_wholeWord .opa) (t := { s with opa := v }) rfl hp [] [], ?_⟩
  obtain ⟨u, hu⟩ := everyStepAnswersANextState
    { s with sched := [.engine, .host], host := [.tx (.write 0x008#12 .four v)] }
  obtain ⟨hpend, _, _, hhost, hsched⟩ := engine_step_frame rfl hu
  have hwrite := step_register_write_performed .opa (w := v) (t := { u with opa := v }) rfl hpend [] []
  rw [← eq_hostTurn (x := .write RegName.opa.offset .four v) hsched hhost] at hwrite
  exact ⟨_, run_two hu hwrite, rfl, rfl, hpend⟩

/-! ### WAIT -/

/-- The host's step at a poll leaves the poll or ends it, and does not touch the schedule (R86). -/
theorem hostStep_poll {s : State} {addr : Offset} {mask value : Word} {r : List HostOp}
    (hh : s.host = .poll addr mask value :: r) :
    ((hostStep s).host = r ∨ (hostStep s).host = s.host) ∧ (hostStep s).sched = s.sched := by
  rcases hostStep_cases s with ⟨hnil, _⟩ | ⟨x, rest, htx, _⟩ | ⟨addr', mask', value', rest, hpoll, h⟩
  · exact nomatch hh.symm.trans hnil
  · exact nomatch hh.symm.trans htx
  · cases hh.symm.trans hpoll
    rw [h, access_frame]
    exact ⟨ite_eq_or_eq _ _ _, rfl⟩

/-- Whoever moves, a step at a poll leaves it or ends it, and uses up one entry of the schedule. -/
theorem step_poll {s t : State} {addr : Offset} {mask value : Word} {r : List HostOp}
    (hh : s.host = .poll addr mask value :: r) (h : step s = .next t) :
    (t.host = r ∨ t.host = s.host) ∧ t.sched = s.sched.tail := by
  cases ha : nextAgent s with
  | host =>
    cases (step_host ha).symm.trans h
    exact hostStep_poll (s := takeTurn s) hh
  | engine =>
    obtain ⟨_, _, _, hhost, hsched⟩ := engine_step_frame ha h
    exact ⟨.inr hhost, hsched⟩
  | reset =>
    cases (step_reset ha).symm.trans h
    exact ⟨.inr rfl, rfl⟩

/-- With the schedule used up and a command in flight the engine moves (R243, log 1). -/
theorem nextAgent_of_inFlight {s : State} {w : Word} (hs : s.sched = []) (hp : s.pend = some w) :
    nextAgent s = .engine := by
  rw [nextAgent, hs]
  simp only [busy_of_pend hp, if_true]

/-- With the schedule used up a WAIT ends: at once with no command in flight, and else after the
completion (R243, log 1). -/
theorem wait_ends_of_sched_nil {s : State} (hs : s.sched = []) (hh : s.host = [waitOp]) :
    ∃ k t, k ≤ 2 ∧ Sys2Proof.core.run k s = .next t ∧ t.host = [] := by
  cases hp : s.pend with
  | none => exact ⟨1, _, by decide, run_succ (M := Sys2Proof.core) (step_wait_of_idle hs hp hh) 0, rfl⟩
  | some w =>
    obtain ⟨u, hu⟩ := everyStepAnswersANextState s
    obtain ⟨hpend, _, _, hhost, hsched⟩ := engine_step_frame (nextAgent_of_inFlight hs hp) hu
    have hwait := step_wait_of_idle (hsched.trans (by rw [hs]; rfl)) hpend (hhost.trans hh)
    exact ⟨2, _, by decide, run_two hu hwait, rfl⟩

/-- Settles O53, by induction on the schedule: each of its steps ends the WAIT or leaves it with one entry
fewer, and with none left `wait_ends_of_sched_nil` does. -/
theorem waitTerminates : Obligations.WaitTerminates := by
  intro s hh
  induction hq : s.sched generalizing s with
  | nil => exact wait_ends_of_sched_nil hq hh
  | cons a q ih =>
    obtain ⟨u, hu⟩ := everyStepAnswersANextState s
    obtain ⟨hdone | hsame, hsched⟩ := step_poll hh hu
    · exact ⟨1, u, by simp, run_succ (M := Sys2Proof.core) hu 0, hdone⟩
    · obtain ⟨k, t, hk, hrun, ht⟩ := ih u (hsame.trans hh) (hsched.trans (by rw [hq]; rfl))
      exact ⟨k + 1, t, by simpa using hk, (run_succ (M := Sys2Proof.core) hu k).trans hrun, ht⟩

end Sys2Proof.Machine
end
